-- ==== Sys2Proof/Word.lean ====
section
/-! DEFINITION. The word types of the LXP codec block (spec 00_scope.md R17, R18): every quantity is an unsigned
integer of a stated width. -/

namespace Sys2Proof

/-- `u8`: one byte of a frame or of a buffer, an 8-bit register (R17). -/
abbrev Byte := BitVec 8

/-- `u16`: a register value, a CRC, a 16-bit register (R17). -/
abbrev U16 := BitVec 16

/-- The width of RSTAT, and of one register word as a host read returns it (R45, R55). -/
abbrev U32 := BitVec 32

end Sys2Proof
end

