-- ==== Sys2Proof/Config.lean ====
section
/-! DEFINITION. What is fixed before reset (spec 00_scope.md R10 to R16) and the values the spec leaves open
(93_implementation_defined.md U3). -/

namespace Sys2Proof

/-- `LXP_SERIAL_MODE` (R12): which 10-byte serial fields a Proprietary frame carries after the function byte. It is a
strap of the block; the model keeps it in `State.serialMode` so that every statement holds for all three values. -/
inductive SerialMode where
  | both
  | deviceOnly
  | bridgeOnly
  deriving DecidableEq, Repr

/-- The framing a codec command names (R3), the Proprietary one with the strap that fixes its header. -/
inductive Framing where
  | std
  | lxp (mode : SerialMode)
  deriving DecidableEq, Repr

/-- The initial CRC value `CRC_INIT` (R10). -/
def Config.crcInit : U16 := 0xFFFF

/-- The CRC feedback constant `CRC_XOR` (R10). -/
def Config.crcXor : U16 := 0xA001

/-- `BUF_SIZE`, the capacity in bytes of IBUF and of OBUF (R11). -/
def Config.bufSize : Nat := 512

/-- `NVALMAX`, the largest number of 16-bit values in one frame (R13). -/
def Config.nvalMax : Nat := 127

/-- `SERIAL_PLACEHOLDER`, the byte that replaces a non-printable byte of a reported serial (R14). -/
def Config.serialPlaceholder : Byte := 0x3F

/-- `LXP_SERIAL_MODE` when nothing else is strapped (R12: default BOTH). -/
def Config.defaultSerialMode : SerialMode := .both

/-- A FREE VALUE, with no body: what element `i` of IBUF or OBUF yields at the `k`-th host access while it holds no
value (U3, treatment `any value`). Assumption log 3. -/
opaque Config.freeByte (k i : Nat) : Byte

/-- A FREE VALUE, with no body: what element `i` of WVAL or RVAL yields at the `k`-th host access while it holds no
value (U3, treatment `any value`). Assumption log 3. -/
opaque Config.freeU16 (k i : Nat) : U16

end Sys2Proof
end

