-- ==== Sys2Proof/Syntax.lean ====
section
/-! DEFINITION. The instructions: one constructor for every row of spec/opcode_table.json, that is the fifteen host
commands (R101) and the eighteen wire frame formats (R105 to R109), the latter with the fields of their layouts. -/

namespace Sys2Proof

/-- A serial field: ten bytes, `b0` first on the wire (R10, R47, R72). -/
structure Serial where
  b0 : Byte
  b1 : Byte
  b2 : Byte
  b3 : Byte
  b4 : Byte
  b5 : Byte
  b6 : Byte
  b7 : Byte
  b8 : Byte
  b9 : Byte
  deriving DecidableEq, Repr

/-- The serial fields of one Proprietary header (R107): bridge then device, or one of the two. -/
inductive HeaderSerials where
  | both (bridge device : Serial)
  | device (device : Serial)
  | bridge (bridge : Serial)
  deriving DecidableEq, Repr

/-- The decoding spaces of the table (R116): a format is a separate space. -/
inductive Space where
  | cmd
  | stdReq
  | stdRsp
  | lxpReq
  | lxpRsp
  deriving DecidableEq, Repr

/-- Why a byte sequence is no instruction of a space. -/
inductive DecodeError where
  /-- Not exactly one byte in the command space (R100). -/
  | notOneByte
  /-- One of the 241 reserved opcodes (R102). -/
  | reservedOpcode
  /-- Shorter than the format's (minimum) length (R105, R106, R108, R109). -/
  | tooShort
  /-- The last two bytes are not the CRC of the others, low byte first (R33, R103). -/
  | crcMismatch
  /-- A function byte that is no row of the space (R112, R113). -/
  | unsupportedFunction
  /-- A request longer than its layout, or whose byteCount is not twice its count (R105, R108, R110). -/
  | badLength
  /-- The declared length of a read response does not fit in the buffer (R194, R233). -/
  | lengthExceedsBuffer
  /-- Longer than the block's buffers (R11). -/
  | tooLong
  deriving DecidableEq, Repr

/-- The instructions. `extra` is what a response buffer holds between its last field and its trailer, which the
layouts allow because the CRC is the last two bytes of the buffer (R106, R109, R268). The CRC trailer is no operand:
it is a function of the bytes before it (R103). -/
inductive Instr where
  -- The fifteen commands, format CMD8 (R100, R101).
  | nop
  | crcInit
  | crcByte
  | crcBuf
  | bfGet
  | bfSet
  | stdAddr
  | stdRd
  | stdWr1
  | stdWrn
  | stdDec
  | lxpRd
  | lxpWr1
  | lxpWrn
  | lxpDec
  -- Standard requests (R105).
  | stdReqRd3 (address : Byte) (start count : U16)
  | stdReqRd4 (address : Byte) (start count : U16)
  | stdReqWr1 (address : Byte) (register value : U16)
  | stdReqWrn (address : Byte) (start : U16) (values : List U16)
  -- Standard responses (R106).
  | stdRspExc (address : Byte) (func : BitVec 7) (code : Byte) (extra : List Byte)
  | stdRspRd3 (address : Byte) (data extra : List Byte)
  | stdRspRd4 (address : Byte) (data extra : List Byte)
  | stdRspWr1 (address : Byte) (register value : U16) (extra : List Byte)
  | stdRspWrn (address : Byte) (start count : U16) (extra : List Byte)
  -- Proprietary requests (R107, R108).
  | lxpReqRd3 (address : Byte) (serials : HeaderSerials) (start count : U16)
  | lxpReqRd4 (address : Byte) (serials : HeaderSerials) (start count : U16)
  | lxpReqWr1 (address : Byte) (serials : HeaderSerials) (register value : U16)
  | lxpReqWrn (address : Byte) (serials : HeaderSerials) (start : U16) (values : List U16)
  -- Proprietary responses (R107, R109).
  | lxpRspExc (address : Byte) (func : BitVec 7) (serials : HeaderSerials) (code : Byte) (extra : List Byte)
  | lxpRspRd3 (address : Byte) (serials : HeaderSerials) (data extra : List Byte)
  | lxpRspRd4 (address : Byte) (serials : HeaderSerials) (data extra : List Byte)
  | lxpRspWr1 (address : Byte) (serials : HeaderSerials) (register value : U16) (extra : List Byte)
  | lxpRspWrn (address : Byte) (serials : HeaderSerials) (start count : U16) (extra : List Byte)
  deriving DecidableEq, Repr

/-- The decoding space an instruction belongs to: the `format` of its row in spec/opcode_table.json. -/
def Instr.space : Instr → Space
  | .nop | .crcInit | .crcByte | .crcBuf | .bfGet | .bfSet | .stdAddr | .stdRd | .stdWr1 | .stdWrn | .stdDec
  | .lxpRd | .lxpWr1 | .lxpWrn | .lxpDec => .cmd
  | .stdReqRd3 .. | .stdReqRd4 .. | .stdReqWr1 .. | .stdReqWrn .. => .stdReq
  | .stdRspExc .. | .stdRspRd3 .. | .stdRspRd4 .. | .stdRspWr1 .. | .stdRspWrn .. => .stdRsp
  | .lxpReqRd3 .. | .lxpReqRd4 .. | .lxpReqWr1 .. | .lxpReqWrn .. => .lxpReq
  | .lxpRspExc .. | .lxpRspRd3 .. | .lxpRspRd4 .. | .lxpRspWr1 .. | .lxpRspWrn .. => .lxpRsp

end Sys2Proof
end

