-- ==== Sys2Proof/Machine/Bytes.lean ====
section
/-! DEFINITION. Byte sequences, the four field primitives and the serial fields (spec 00_scope.md R18 to R20,
20_memory.md R71 to R75, R88). -/

namespace Sys2Proof

/-- Byte `i` of a sequence (R19). Every read a rule makes is guarded by a length test (R75), so the default stands for
no byte of the spec. -/
def byteAt (s : List Byte) (i : Nat) : Byte := s.getD i 0

/-- `s[a:b]`, the bytes `a` to `b - 1` (R19). -/
def slice (s : List Byte) (a b : Nat) : List Byte := (s.drop a).take (b - a)

/-- `hi * 256 + lo` (R20, R292). -/
def joinBytes (hi lo : Byte) : U16 := BitVec.ofNat 16 (hi.toNat * 256 + lo.toNat)

/-- `v >> 8` (R20, R292). -/
def highByte (v : U16) : Byte := (v >>> 8).setWidth 8

/-- `v & 0xFF` (R20, R292). -/
def lowByte (v : U16) : Byte := (v &&& 0xFF).setWidth 8

/-- `be16(s, i)`: the high byte at the lower index (R20, R71). -/
def be16 (s : List Byte) (i : Nat) : U16 := joinBytes (byteAt s i) (byteAt s (i + 1))

/-- `le16(s, i)`: the low byte at the lower index (R20, R72). -/
def le16 (s : List Byte) (i : Nat) : U16 := joinBytes (byteAt s (i + 1)) (byteAt s i)

/-- `put_be16(v) = [v >> 8, v & 0xFF]` (R20). -/
def putBe16 (v : U16) : List Byte := [highByte v, lowByte v]

/-- `put_le16(v) = [v & 0xFF, v >> 8]` (R20). -/
def putLe16 (v : U16) : List Byte := [lowByte v, highByte v]

/-- The u16 read of a framing: big-endian in Standard frames, little-endian in Proprietary ones (R71, R72). -/
def get16 : Framing → List Byte → Nat → U16
  | .std, s, i => be16 s i
  | .lxp _, s, i => le16 s i

/-- The u16 write of a framing (R71, R72). -/
def put16 : Framing → U16 → List Byte
  | .std, v => putBe16 v
  | .lxp _, v => putLe16 v

/-- The header length `H` of a Proprietary frame (R12, R107). -/
def SerialMode.headerBytes : SerialMode → Nat
  | .both => 22
  | .deviceOnly => 12
  | .bridgeOnly => 12

/-- `Hd`: 2 for the Standard framing, `H` for the Proprietary one (R263). -/
def headerLength : Framing → Nat
  | .std => 2
  | .lxp m => m.headerBytes

/-- The ten bytes of a serial in wire order (R47, R72). -/
def serialBytes (s : Serial) : List Byte := [s.b0, s.b1, s.b2, s.b3, s.b4, s.b5, s.b6, s.b7, s.b8, s.b9]

/-- The serial whose bytes are the first ten of a sequence (R229). -/
def serialOf (l : List Byte) : Serial :=
  ⟨byteAt l 0, byteAt l 1, byteAt l 2, byteAt l 3, byteAt l 4,
   byteAt l 5, byteAt l 6, byteAt l 7, byteAt l 8, byteAt l 9⟩

/-- Ten equal bytes: the sentinel (0x30) and the cleared serial (0x00) (R48, R54). -/
def serialFill (b : Byte) : Serial := ⟨b, b, b, b, b, b, b, b, b, b⟩

/-- One byte of a serial register as the host reads it (R55). -/
def serialGet (s : Serial) (i : Nat) : Byte := byteAt (serialBytes s) i

/-- A serial register after a host write of its byte `i` (R55). -/
def serialSet (s : Serial) (i : Nat) (v : Byte) : Serial := serialOf ((serialBytes s).set i v)

/-- The sentinel serial "0000000000": ten bytes 0x30 (R25, R32). -/
def sentinelSerial : Serial := serialFill 0x30

/-- The serial result registers when there is nothing to report: ten zero bytes (R48). -/
def zeroSerial : Serial := serialFill 0x00

/-- `is_sentinel(s)` (R221): defined for test benches, evaluated by no command. -/
def isSentinel (s : Serial) : Bool := (serialBytes s).all (fun b => b == 0x30)

/-- The serial fields of a Proprietary header in wire order, the bridge before the device (R107). -/
def headerSerialBytes : HeaderSerials → List Byte
  | .both b d => serialBytes b ++ serialBytes d
  | .device d => serialBytes d
  | .bridge b => serialBytes b

/-- The serial fields the strap selects from the operands BSER and DSER (R220). -/
def selectSerials : SerialMode → Serial → Serial → HeaderSerials
  | .both, b, d => .both b d
  | .deviceOnly, _, d => .device d
  | .bridgeOnly, b, _ => .bridge b

/-- The serial fields of a received header (R229). -/
def readSerials (m : SerialMode) (buf : List Byte) : HeaderSerials :=
  match m with
  | .both => .both (serialOf (slice buf 2 12)) (serialOf (slice buf 12 22))
  | .deviceOnly => .device (serialOf (slice buf 2 12))
  | .bridgeOnly => .bridge (serialOf (slice buf 2 12))

/-- What RBSER reports of a header: ten zero bytes where it has no bridge serial (R48). -/
def HeaderSerials.reportedBridge : HeaderSerials → Serial
  | .both b _ => b
  | .device _ => zeroSerial
  | .bridge b => b

/-- What RDSER reports of a header: ten zero bytes where it has no device serial (R48). -/
def HeaderSerials.reportedDevice : HeaderSerials → Serial
  | .both _ d => d
  | .device d => d
  | .bridge _ => zeroSerial

/-- `values` of a data segment read from its front, an odd last byte belonging to no value (R194, R233). -/
def valuesOf (fr : Framing) : List Byte → List U16
  | a :: b :: rest => get16 fr [a, b] 0 :: valuesOf fr rest
  | _ => []

end Sys2Proof
end

