-- ==== Sys2Proof/Machine/Crc.lean ====
section
/-! DEFINITION. The CRC-16 functions of unit U1 (spec 40_crc.md R140, R141). -/

namespace Sys2Proof

/-- One of the eight iterations: the low bit is tested before the logical shift (R140). -/
def crcShift (c : U16) : U16 := if c.getLsbD 0 then (c >>> 1) ^^^ Config.crcXor else c >>> 1

/-- `n` iterations (R140). -/
def crcShifts : Nat → U16 → U16
  | 0, c => c
  | n + 1, c => crcShifts n (crcShift c)

/-- `crc_step(c, b)` (R140): XOR into the low byte, then eight iterations. -/
def crcStep (c : U16) (b : Byte) : U16 := crcShifts 8 (c ^^^ b.setWidth 16)

/-- The CRC register after folding a byte sequence into `c`, in order (R141, R142). -/
def crcFrom (c : U16) (data : List Byte) : U16 := data.foldl crcStep c

/-- `crc16(data)` (R141): no final XOR, no reversal. -/
def crc16 (data : List Byte) : U16 := crcFrom Config.crcInit data

/-- The checksum test of both decoders (R191, R229): the CRC of all but the last two bytes of the buffer against those
two, low byte first. -/
def crcOk (buf : List Byte) : Bool := decide (crc16 (buf.take (buf.length - 2)) = le16 buf (buf.length - 2))

/-- A frame: a body and its trailer, the CRC low byte first (R33, R103, R146). -/
def closeFrame (body : List Byte) : List Byte := body ++ putLe16 (crc16 body)

end Sys2Proof
end

