-- ==== Sys2Proof/Machine/Frame.lean ====
section
/-! DEFINITION. The request encoders of units U3 and U4 (spec 42_std_codec.md R180 to R186, 43_lxp_codec.md R220 to
R224): pure functions from operands to a frame. -/

namespace Sys2Proof

/-- `resolve_address(id)` (R180): byte 0, with 1 in place of a zero byte or an empty identifier. -/
def resolveAddress : List Byte → Byte
  | [] => 1
  | b :: _ => if b = 0 then 1 else b

/-- The function byte of a read request (R110): 3 for Holding, 4 for Input. -/
def readFunction (fsel : BitVec 1) : Byte := if fsel = 1 then 0x04 else 0x03

/-- `std_enc_read` (R182). -/
def stdEncRead (addr : Byte) (fsel : BitVec 1) (start count : U16) : List Byte :=
  closeFrame ([addr, readFunction fsel] ++ putBe16 start ++ putBe16 count)

/-- `std_enc_write1` (R184). -/
def stdEncWrite1 (addr : Byte) (register value : U16) : List Byte :=
  closeFrame ([addr, 0x06] ++ putBe16 register ++ putBe16 value)

/-- The `count` field of a write-multiple request: the number of values as a u16 (R110). -/
def countField (values : List U16) : U16 := BitVec.ofNat 16 values.length

/-- The `byteCount` field: twice the number of values, one byte (R110). -/
def byteCount (values : List U16) : Byte := BitVec.ofNat 8 (2 * values.length)

/-- `std_enc_writen` (R186), defined by the spec for at most NVALMAX values. -/
def stdEncWriten (addr : Byte) (start : U16) (values : List U16) : List Byte :=
  closeFrame ([addr, 0x10] ++ putBe16 start ++ putBe16 (countField values) ++ [byteCount values] ++
    values.flatMap putBe16)

/-- `lxp_header` (R220), over the serial fields the strap selects. -/
def lxpHeader (addr fb : Byte) (ser : HeaderSerials) : List Byte := [addr, fb] ++ headerSerialBytes ser

/-- `lxp_enc_read` (R222). -/
def lxpEncRead (addr : Byte) (fsel : BitVec 1) (ser : HeaderSerials) (start count : U16) : List Byte :=
  closeFrame (lxpHeader addr (readFunction fsel) ser ++ putLe16 start ++ putLe16 count)

/-- `lxp_enc_write1` (R223). -/
def lxpEncWrite1 (addr : Byte) (ser : HeaderSerials) (register value : U16) : List Byte :=
  closeFrame (lxpHeader addr 0x06 ser ++ putLe16 register ++ putLe16 value)

/-- `lxp_enc_writen` (R224), defined by the spec for at most NVALMAX values. -/
def lxpEncWriten (addr : Byte) (ser : HeaderSerials) (start : U16) (values : List U16) : List Byte :=
  closeFrame (lxpHeader addr 0x10 ser ++ putLe16 start ++ putLe16 (countField values) ++ [byteCount values] ++
    values.flatMap putLe16)

end Sys2Proof
end

