-- ==== Sys2Proof/WellFormed.lean ====
section
/-! DEFINITION. When an instruction term stands for bytes: the counts and lengths its layout can carry, the serial
fields the strap selects, and a frame no longer than the block's buffers (R11, R13, R105 to R109). -/

namespace Sys2Proof

/-- The serial fields present are those LXP_SERIAL_MODE selects (R107). -/
def HeaderSerials.fits : HeaderSerials → SerialMode → Bool
  | .both .., .both => true
  | .device .., .deviceOnly => true
  | .bridge .., .bridgeOnly => true
  | _, _ => false

/-- At most NVALMAX values, so that byteCount fits its one byte (R13, R186). -/
def countFits (values : List U16) : Bool := decide (values.length ≤ Config.nvalMax)

/-- The declared length of a read response fits its one byte (R106). -/
def dataFits (data : List Byte) : Bool := decide (data.length ≤ 255)

/-- A frame of `n` bytes fits IBUF (R11). -/
def frameFits (n : Nat) : Bool := decide (n ≤ Config.bufSize)

/-- Well-formed under the strap `m`: exactly the terms that some byte sequence of the row's format encodes. -/
def Instr.wf (m : SerialMode) : Instr → Bool
  | .nop | .crcInit | .crcByte | .crcBuf | .bfGet | .bfSet | .stdAddr | .stdRd | .stdWr1 | .stdWrn | .stdDec
  | .lxpRd | .lxpWr1 | .lxpWrn | .lxpDec => true
  | .stdReqRd3 _ _ _ | .stdReqRd4 _ _ _ | .stdReqWr1 _ _ _ => true
  | .stdReqWrn _ _ values => countFits values
  | .stdRspExc _ _ _ extra => frameFits (5 + extra.length)
  | .stdRspRd3 _ data extra => dataFits data && frameFits (5 + data.length + extra.length)
  | .stdRspRd4 _ data extra => dataFits data && frameFits (5 + data.length + extra.length)
  | .stdRspWr1 _ _ _ extra => frameFits (8 + extra.length)
  | .stdRspWrn _ _ _ extra => frameFits (8 + extra.length)
  | .lxpReqRd3 _ ser _ _ => ser.fits m
  | .lxpReqRd4 _ ser _ _ => ser.fits m
  | .lxpReqWr1 _ ser _ _ => ser.fits m
  | .lxpReqWrn _ ser _ values => ser.fits m && countFits values
  | .lxpRspExc _ _ ser _ extra => ser.fits m && frameFits (m.headerBytes + 3 + extra.length)
  | .lxpRspRd3 _ ser data extra =>
    ser.fits m && dataFits data && frameFits (m.headerBytes + 3 + data.length + extra.length)
  | .lxpRspRd4 _ ser data extra =>
    ser.fits m && dataFits data && frameFits (m.headerBytes + 3 + data.length + extra.length)
  | .lxpRspWr1 _ ser _ _ extra => ser.fits m && frameFits (m.headerBytes + 6 + extra.length)
  | .lxpRspWrn _ ser _ _ extra => ser.fits m && frameFits (m.headerBytes + 6 + extra.length)

end Sys2Proof
end

