-- ==== Sys2Proof/Decode.lean ====
section
/-! DEFINITION. Decoding, total on any bytes and rejecting by name, one function per decoding space of the table
(R100 to R102, R105 to R109, R116), and after it the encoder. -/

namespace Sys2Proof

/-- The command an opcode selects (R101); every other value is reserved (R102). -/
def commandOf (op : Byte) : Except DecodeError Instr :=
  match op.toNat with
  | 0x00 => .ok .nop
  | 0x01 => .ok .crcInit
  | 0x02 => .ok .crcByte
  | 0x03 => .ok .crcBuf
  | 0x08 => .ok .bfGet
  | 0x09 => .ok .bfSet
  | 0x10 => .ok .stdAddr
  | 0x11 => .ok .stdRd
  | 0x12 => .ok .stdWr1
  | 0x13 => .ok .stdWrn
  | 0x14 => .ok .stdDec
  | 0x21 => .ok .lxpRd
  | 0x22 => .ok .lxpWr1
  | 0x23 => .ok .lxpWrn
  | 0x24 => .ok .lxpDec
  | _ => .error .reservedOpcode

/-- The command space: exactly one byte (R100). -/
def decodeCommand : List Byte → Except DecodeError Instr
  | [op] => commandOf op
  | _ => .error .notOneByte

/-- A request with two u16 fields after the header (R105, R108). -/
def pairRequest (fr : Framing) (buf : List Byte) (std : Byte → U16 → U16 → Instr)
    (lxp : Byte → HeaderSerials → U16 → U16 → Instr) : Except DecodeError Instr :=
  let hd := headerLength fr
  if buf.length ≠ hd + 6 then .error .badLength
  else
    match fr with
    | .std => .ok (std (byteAt buf 0) (get16 fr buf hd) (get16 fr buf (hd + 2)))
    | .lxp m => .ok (lxp (byteAt buf 0) (readSerials m buf) (get16 fr buf hd) (get16 fr buf (hd + 2)))

/-- A write-multiple request: count, byteCount and values agree with the length (R105, R108, R110). -/
def writeManyRequest (fr : Framing) (buf : List Byte) : Except DecodeError Instr :=
  let hd := headerLength fr
  let n := (get16 fr buf (hd + 2)).toNat
  if n ≤ Config.nvalMax ∧ (byteAt buf (hd + 4)).toNat = 2 * n ∧ buf.length = hd + 7 + 2 * n then
    let values := valuesOf fr (slice buf (hd + 5) (hd + 5 + 2 * n))
    match fr with
    | .std => .ok (.stdReqWrn (byteAt buf 0) (get16 fr buf hd) values)
    | .lxp m => .ok (.lxpReqWrn (byteAt buf 0) (readSerials m buf) (get16 fr buf hd) values)
  else .error .badLength

/-- The request spaces (R105, R108): the trailer is checked, then the function byte selects the row. -/
def decodeRequest (fr : Framing) (buf : List Byte) : Except DecodeError Instr :=
  if buf.length < headerLength fr + 6 then .error .tooShort
  else if crcOk buf = false then .error .crcMismatch
  else
    match (byteAt buf 1).toNat with
    | 0x03 => pairRequest fr buf .stdReqRd3 .lxpReqRd3
    | 0x04 => pairRequest fr buf .stdReqRd4 .lxpReqRd4
    | 0x06 => pairRequest fr buf .stdReqWr1 .lxpReqWr1
    | 0x10 => writeManyRequest fr buf
    | _ => .error .unsupportedFunction

/-- An exception response (R106, R109): the code is the first byte after the header. -/
def exceptionResponse (fr : Framing) (buf : List Byte) : Except DecodeError Instr :=
  let hd := headerLength fr
  let func := (byteAt buf 1).extractLsb' 0 7
  let extra := slice buf (hd + 1) (buf.length - 2)
  match fr with
  | .std => .ok (.stdRspExc (byteAt buf 0) func (byteAt buf hd) extra)
  | .lxp m => .ok (.lxpRspExc (byteAt buf 0) func (readSerials m buf) (byteAt buf hd) extra)

/-- A read response (R106, R109): the declared length, that many data bytes, and what lies before the trailer. -/
def readResponse (fr : Framing) (buf : List Byte) (std : Byte → List Byte → List Byte → Instr)
    (lxp : Byte → HeaderSerials → List Byte → List Byte → Instr) : Except DecodeError Instr :=
  let hd := headerLength fr
  let n := (byteAt buf hd).toNat
  if hd + 1 + n + 2 > buf.length then .error .lengthExceedsBuffer
  else
    let data := slice buf (hd + 1) (hd + 1 + n)
    let extra := slice buf (hd + 1 + n) (buf.length - 2)
    match fr with
    | .std => .ok (std (byteAt buf 0) data extra)
    | .lxp m => .ok (lxp (byteAt buf 0) (readSerials m buf) data extra)

/-- A write echo (R106, R109): two u16 fields, and what lies before the trailer. -/
def echoResponse (fr : Framing) (buf : List Byte) (std : Byte → U16 → U16 → List Byte → Instr)
    (lxp : Byte → HeaderSerials → U16 → U16 → List Byte → Instr) : Except DecodeError Instr :=
  let hd := headerLength fr
  if buf.length < hd + 6 then .error .tooShort
  else
    let extra := slice buf (hd + 4) (buf.length - 2)
    match fr with
    | .std => .ok (std (byteAt buf 0) (get16 fr buf hd) (get16 fr buf (hd + 2)) extra)
    | .lxp m => .ok (lxp (byteAt buf 0) (readSerials m buf) (get16 fr buf hd) (get16 fr buf (hd + 2)) extra)

/-- The response spaces (R106, R109): within each the exception row is tried first (R116). -/
def decodeResponseRow (fr : Framing) (buf : List Byte) : Except DecodeError Instr :=
  if Config.bufSize < buf.length then .error .tooLong
  else if buf.length < headerLength fr + 3 then .error .tooShort
  else if crcOk buf = false then .error .crcMismatch
  else if (byteAt buf 1).getLsbD 7 then exceptionResponse fr buf
  else
    match (byteAt buf 1).toNat with
    | 0x03 => readResponse fr buf .stdRspRd3 .lxpRspRd3
    | 0x04 => readResponse fr buf .stdRspRd4 .lxpRspRd4
    | 0x06 => echoResponse fr buf .stdRspWr1 .lxpRspWr1
    | 0x10 => echoResponse fr buf .stdRspWrn .lxpRspWrn
    | _ => .error .unsupportedFunction

/-- The decoder: the instruction a byte sequence stands for in one decoding space, under the strap `m`. -/
def decode (m : SerialMode) : Space → List Byte → Except DecodeError Instr
  | .cmd, buf => decodeCommand buf
  | .stdReq, buf => decodeRequest .std buf
  | .stdRsp, buf => decodeResponseRow .std buf
  | .lxpReq, buf => decodeRequest (.lxp m) buf
  | .lxpRsp, buf => decodeResponseRow (.lxp m) buf

/-- The function byte of an exception response: bit 7 set over the function code (R104). -/
def exceptionByte (func : BitVec 7) : Byte := 1#1 ++ func

/-- The declared length byte of a read response (R106). -/
def lengthByte (data : List Byte) : Byte := BitVec.ofNat 8 data.length

/-- The encoder: the bytes of a well-formed instruction, first byte first (R101, R105, R106, R108, R109). -/
def encode : Instr → List Byte
  | .nop => [0x00]
  | .crcInit => [0x01]
  | .crcByte => [0x02]
  | .crcBuf => [0x03]
  | .bfGet => [0x08]
  | .bfSet => [0x09]
  | .stdAddr => [0x10]
  | .stdRd => [0x11]
  | .stdWr1 => [0x12]
  | .stdWrn => [0x13]
  | .stdDec => [0x14]
  | .lxpRd => [0x21]
  | .lxpWr1 => [0x22]
  | .lxpWrn => [0x23]
  | .lxpDec => [0x24]
  | .stdReqRd3 a start count => closeFrame ([a, 0x03] ++ putBe16 start ++ putBe16 count)
  | .stdReqRd4 a start count => closeFrame ([a, 0x04] ++ putBe16 start ++ putBe16 count)
  | .stdReqWr1 a register value => closeFrame ([a, 0x06] ++ putBe16 register ++ putBe16 value)
  | .stdReqWrn a start values =>
    closeFrame ([a, 0x10] ++ putBe16 start ++ putBe16 (countField values) ++ [byteCount values] ++
      values.flatMap putBe16)
  | .stdRspExc a func code extra => closeFrame ([a, exceptionByte func] ++ [code] ++ extra)
  | .stdRspRd3 a data extra => closeFrame ([a, 0x03] ++ [lengthByte data] ++ data ++ extra)
  | .stdRspRd4 a data extra => closeFrame ([a, 0x04] ++ [lengthByte data] ++ data ++ extra)
  | .stdRspWr1 a register value extra => closeFrame ([a, 0x06] ++ putBe16 register ++ putBe16 value ++ extra)
  | .stdRspWrn a start count extra => closeFrame ([a, 0x10] ++ putBe16 start ++ putBe16 count ++ extra)
  | .lxpReqRd3 a ser start count =>
    closeFrame ([a, 0x03] ++ headerSerialBytes ser ++ putLe16 start ++ putLe16 count)
  | .lxpReqRd4 a ser start count =>
    closeFrame ([a, 0x04] ++ headerSerialBytes ser ++ putLe16 start ++ putLe16 count)
  | .lxpReqWr1 a ser register value =>
    closeFrame ([a, 0x06] ++ headerSerialBytes ser ++ putLe16 register ++ putLe16 value)
  | .lxpReqWrn a ser start values =>
    closeFrame ([a, 0x10] ++ headerSerialBytes ser ++ putLe16 start ++ putLe16 (countField values) ++
      [byteCount values] ++ values.flatMap putLe16)
  | .lxpRspExc a func ser code extra =>
    closeFrame ([a, exceptionByte func] ++ headerSerialBytes ser ++ [code] ++ extra)
  | .lxpRspRd3 a ser data extra =>
    closeFrame ([a, 0x03] ++ headerSerialBytes ser ++ [lengthByte data] ++ data ++ extra)
  | .lxpRspRd4 a ser data extra =>
    closeFrame ([a, 0x04] ++ headerSerialBytes ser ++ [lengthByte data] ++ data ++ extra)
  | .lxpRspWr1 a ser register value extra =>
    closeFrame ([a, 0x06] ++ headerSerialBytes ser ++ putLe16 register ++ putLe16 value ++ extra)
  | .lxpRspWrn a ser start count extra =>
    closeFrame ([a, 0x10] ++ headerSerialBytes ser ++ putLe16 start ++ putLe16 count ++ extra)

/-- The two bytes that `match` and `mask` of a wire row range over (R116): `frame[0] * 256 + frame[1]`, so bits 15:8 are
the address byte and bits 7:0 the function byte. -/
def tableHeader (w : Nat) : List Byte := [BitVec.ofNat 8 (w / 256), BitVec.ofNat 8 w]

/-- The shortest body a function byte gives in a Standard space when every operand byte is 0. -/
def zeroBody (sp : Space) (fb : Nat) : List Byte :=
  match sp with
  | .stdReq => if fb = 0x10 then [0, 0, 0, 0, 0] else [0, 0, 0, 0]
  | _ => if fb < 0x80 then [0, 0, 0, 0] else [0]

/-- The frame a wire row's header bits stand for: operand bytes 0, and the trailer that R103 fixes. -/
def tableFrame (sp : Space) (w : Nat) : List Byte := closeFrame (tableHeader w ++ zeroBody sp (w % 256))

/-- The wire row a header stands for: the Standard request space is tried first, as the table lists it, then the Standard
response space. -/
def decodeTableHeader (w : Nat) : Option Instr :=
  match decode Config.defaultSerialMode .stdReq (tableFrame .stdReq w) with
  | .ok i => some i
  | .error _ => (decode Config.defaultSerialMode .stdRsp (tableFrame .stdRsp w)).toOption

/-- The instruction of a table word. The spaces overlap there (R116) and are tried in the table's order: up to eight bits
is the command space, and beyond it only the exception flag, which no opcode has, makes such a word a wire header (of
address 0); wider words are wire headers (assumption log 6). -/
def decodeTableWord (nbits w : Nat) : Option Instr :=
  if nbits ≤ 8 then
    match decode Config.defaultSerialMode .cmd [BitVec.ofNat 8 w] with
    | .ok i => some i
    | .error _ => if w % 256 < 0x80 then none else decodeTableHeader w
  else decodeTableHeader w

end Sys2Proof
end

