-- ==== Sys2Proof/Machine/BitField.lean ====
section
/-! DEFINITION. The bit-field functions of unit U2 (spec 41_bitfield.md R160, R161, R163). They are partial: `none`
outside `offset + width <= 16` (93_implementation_defined.md U1). -/

namespace Sys2Proof

/-- `(1 << width) - 1`, computed without loss before it is taken as a u16 (R160, R292). -/
def bitMask (width : Nat) : U16 := BitVec.ofNat 16 (2 ^ width - 1)

/-- The range check `offset + width <= 16`, a sum of natural numbers (R163). -/
def bitsInRange (offset width : Nat) : Bool := decide (offset + width ≤ 16)

/-- `get_bits(register, offset, width)` (R160). -/
def getBits (register : U16) (offset width : Nat) : Option U16 :=
  if bitsInRange offset width then some ((register >>> offset) &&& bitMask width) else none

/-- `set_bits(register, offset, width, value)` (R161), the inserted value shifted to the window (90_conflicts.md C5). -/
def setBits (register : U16) (offset width : Nat) (value : U16) : Option U16 :=
  if bitsInRange offset width then
    some ((register &&& ~~~(bitMask width <<< offset)) ||| ((value &&& bitMask width) <<< offset))
  else none

end Sys2Proof
end

