-- ==== Sys2Proof/Machine/State.lean ====
section
/-! DEFINITION. The state of the block as plain data (spec 10_state.md), the reasons a step can stop, and the state
after reset (R54, R340). -/

namespace Sys2Proof.Machine

/-- An array of `w`-bit elements of which some hold a value: (index, value) pairs, indices strictly rising. An unlisted
element holds no value (R49, R50, R54; 93_implementation_defined.md U3). -/
abbrev Cells (w : Nat) := List (Nat × BitVec w)

/-- A byte space of the block, IBUF or OBUF (R70): a list of `Host.Cell`. -/
abbrev Memory := Cells 8

/-- The indices rise strictly and lie below `bound`: the one canonical form of an array. -/
def cellsWf {w : Nat} (bound : Nat) : Cells w → Bool
  | [] => true
  | [(i, _)] => decide (i < bound)
  | (i, _) :: (j, v) :: rest => decide (i < j) && cellsWf bound ((j, v) :: rest)

/-- The canonical form of a byte space: indices strictly rising and below BUF_SIZE (R50, R70). -/
def Memory.wf (m : Memory) : Bool := cellsWf Config.bufSize m

/-- What the host can do to the block (R81), and its one reset input (R340). `off` is a byte offset from BASE (R55);
`v` is the number the host writes, of no stated bus width (R78). -/
inductive HostEvent where
  | read (off : Nat)
  | write (off v : Nat)
  | reset
  deriving DecidableEq, Repr

/-- The state. Every register of the map R55 is here under its own name, but CMD, which holds nothing (R43). -/
structure State where
  /-- LXP_SERIAL_MODE, the strap (R12): no step writes it. -/
  serialMode : SerialMode
  /-- CSTAT (R44): bits 3:0 are CERR. -/
  cstat : Byte
  /-- CRCACC (R40). -/
  crcacc : U16
  /-- CRCIN (R40). -/
  crcin : Byte
  /-- BFR (R41). -/
  bfr : U16
  /-- BFPOS (R41): OFFSET in bits 7:0, WIDTH in bits 15:8. -/
  bfpos : U16
  /-- BFV (R41). -/
  bfv : U16
  /-- BFQ (R41). -/
  bfq : U16
  /-- ADDR (R39). -/
  addr : Byte
  /-- FSEL (R39): 0 Holding, 1 Input. -/
  fsel : BitVec 1
  /-- START, also named REG (R39). -/
  start : U16
  /-- COUNT, also named VALUE (R39). -/
  count : U16
  /-- ILEN (R42). -/
  ilen : U16
  /-- OLEN (R42). -/
  olen : U16
  /-- RSTAT (R45). -/
  rstat : U32
  /-- RSTART (R46). -/
  rstart : U16
  /-- RCOUNT (R46). -/
  rcount : U16
  /-- NVAL (R46). -/
  nval : Byte
  /-- RLEN (R46). -/
  rlen : Byte
  /-- BSER (R47). -/
  bser : Serial
  /-- DSER (R47). -/
  dser : Serial
  /-- RBSER (R48). -/
  rbser : Serial
  /-- RDSER (R48). -/
  rdser : Serial
  /-- SEROUT (R48). -/
  serout : Serial
  /-- WVAL (R49). -/
  wval : Cells 16
  /-- RVAL (R49). -/
  rval : Cells 16
  /-- IBUF (R50). -/
  ibuf : Memory
  /-- OBUF (R50). -/
  obuf : Memory
  /-- The MODEL's own: the host accesses still to come, in the order issued (R82). -/
  pending : List HostEvent
  /-- The MODEL's own: the value the last host access returned, if it was a read (R81). -/
  reply : Option U32
  /-- The MODEL's own: how many host accesses have been made, the index of the free values. -/
  draws : Nat
  deriving DecidableEq, Repr

/-- A step that stops with a fault. No command faults (R261, R307). -/
inductive Fault where
  /-- Raised by the step for a host access at an offset of 0x800 or above: no part of the block is there (R55, R70).
  Safe: the model stops where the access would reach something else. -/
  | outsideBlock (off : Nat)
  deriving DecidableEq, Repr

/-- A step that is refused. -/
inductive Refusal where
  /-- Raised by exec for an instruction whose meaning is not written; no arm answers it. Safe. -/
  | notModelled (mnemonic : String)
  /-- Raised by the step for a host access at an unmapped offset inside the block, which R79 tells a model to refuse.
  Safe. -/
  | unmappedOffset (off : Nat)
  /-- Raised by the meaning of a wire row for a term that no byte sequence encodes under the strap (`Instr.wf` fails);
  decoding never gives one. Safe. -/
  | notEncodable
  deriving DecidableEq, Repr

/-- The state after reset (R54, R340), with the strap at its default (R12) and no host access pending. -/
def State.reset : State where
  serialMode := Config.defaultSerialMode
  cstat := 0
  crcacc := 0xFFFF
  crcin := 0
  bfr := 0
  bfpos := 0
  bfv := 0
  bfq := 0
  addr := 1
  fsel := 0
  start := 0
  count := 0
  ilen := 0
  olen := 0
  rstat := 0x00000017
  rstart := 0
  rcount := 0
  nval := 0
  rlen := 0
  bser := sentinelSerial
  dser := sentinelSerial
  rbser := zeroSerial
  rdser := zeroSerial
  serout := zeroSerial
  wval := []
  rval := []
  ibuf := []
  obuf := []
  pending := []
  reply := none
  draws := 0

end Sys2Proof.Machine
end

