-- ==== Sys2Proof/Machine/Flags.lean ====
section
/-! DEFINITION. The status words: CSTAT.CERR (R44, R306), RSTAT with its fields (R45), and the classification codes
KIND, DIAG and NEED_MORE (R262, R264, R265). The block has no arithmetic condition code (R51). -/

namespace Sys2Proof.Machine

/-- The error codes of CSTAT.CERR (R44, R306). -/
inductive CErr where
  | ok
  | illegalCommand
  | operandRange
  deriving DecidableEq, Repr

/-- The number of an error code; it is the whole of CSTAT, whose bits 7:4 are 0 (R44). -/
def cerrCode : CErr → Byte
  | .ok => 0
  | .illegalCommand => 1
  | .operandRange => 2

/-- The four kinds of a decoded response (R36, R262). -/
inductive Kind where
  | success
  | exception
  | checksumMismatch
  | malformed
  deriving DecidableEq, Repr

/-- RSTAT.KIND (R45). -/
def kindCode : Kind → BitVec 2
  | .success => 0
  | .exception => 1
  | .checksumMismatch => 2
  | .malformed => 3

/-- The kind a KIND field names (R45). -/
def kindOfCode (c : BitVec 2) : Kind :=
  match c.toNat with
  | 0 => .success
  | 1 => .exception
  | 2 => .checksumMismatch
  | _ => .malformed

/-- The diagnostics (R264). -/
inductive Diag where
  | none
  | tooShort
  | lengthExceedsBuffer
  | echoTooShort
  | unsupportedFunction
  | crcMismatch
  | exceptionResponse
  deriving DecidableEq, Repr

/-- RSTAT.DIAG (R45, R264). -/
def diagCode : Diag → BitVec 4
  | .none => 0
  | .tooShort => 1
  | .lengthExceedsBuffer => 2
  | .echoTooShort => 3
  | .unsupportedFunction => 4
  | .crcMismatch => 5
  | .exceptionResponse => 6

/-- The diagnostic a DIAG field names; 7 to 15 never occur (R45). -/
def diagOfCode (c : BitVec 4) : Option Diag :=
  match c.toNat with
  | 0 => some .none
  | 1 => some .tooShort
  | 2 => some .lengthExceedsBuffer
  | 3 => some .echoTooShort
  | 4 => some .unsupportedFunction
  | 5 => some .crcMismatch
  | 6 => some .exceptionResponse
  | _ => Option.none

/-- The kind a diagnostic goes with (R264, third column). -/
def diagKind : Diag → Kind
  | .none => .success
  | .tooShort => .malformed
  | .lengthExceedsBuffer => .malformed
  | .echoTooShort => .malformed
  | .unsupportedFunction => .malformed
  | .crcMismatch => .checksumMismatch
  | .exceptionResponse => .exception

/-- NEED_MORE (R264, R265): the buffer is shorter than what it would have to be. -/
def diagNeedMore : Diag → Bool
  | .none => false
  | .tooShort => true
  | .lengthExceedsBuffer => true
  | .echoTooShort => true
  | .unsupportedFunction => false
  | .crcMismatch => false
  | .exceptionResponse => false

/-- The names of the exception codes 1 to 6 (R301); other codes have none (R302). -/
def exceptionName (code : Byte) : Option String :=
  match code.toNat with
  | 1 => some "Illegal Function"
  | 2 => some "Illegal Data Address"
  | 3 => some "Illegal Data Value"
  | 4 => some "Device Failure"
  | 5 => some "Acknowledge"
  | 6 => some "Device Busy"
  | _ => Option.none

/-- The diagnostic string of a DIAG code (R264), the exception's name after one space (assumption log 7). -/
def diagString (d : Diag) (code : Byte) : String :=
  match d with
  | .none => "ok"
  | .tooShort => "buffer shorter than the minimum response"
  | .lengthExceedsBuffer => "declared data length exceeds buffer"
  | .echoTooShort => "write echo shorter than required"
  | .unsupportedFunction => "unsupported function code."
  | .crcMismatch => "checksum mismatch"
  | .exceptionResponse =>
    match exceptionName code with
    | some name => "device exception " ++ name
    | Option.none => "device exception"

/-- RSTAT assembled from its fields (R45): RADDR 31:24, REXC 23:16, EXCF 15, RFUNC 14:8, DIAG 7:4, SER_VALID 3,
NEED_MORE 2, KIND 1:0. -/
def packRstat (d : Diag) (serValid : Bool) (func : BitVec 7) (excf : Bool) (exc addr : Byte) : U32 :=
  addr ++ exc ++ BitVec.ofBool excf ++ func ++ diagCode d ++ BitVec.ofBool serValid ++
    BitVec.ofBool (diagNeedMore d) ++ kindCode (diagKind d)

/-- RSTAT.KIND (R45). -/
def rstatKind (r : U32) : BitVec 2 := r.extractLsb' 0 2
/-- RSTAT.NEED_MORE (R45). -/
def rstatNeedMore (r : U32) : Bool := r.getLsbD 2
/-- RSTAT.SER_VALID (R45). -/
def rstatSerValid (r : U32) : Bool := r.getLsbD 3
/-- RSTAT.DIAG (R45). -/
def rstatDiag (r : U32) : BitVec 4 := r.extractLsb' 4 4
/-- RSTAT.RFUNC (R45). -/
def rstatFunc (r : U32) : BitVec 7 := r.extractLsb' 8 7
/-- RSTAT.EXCF (R45). -/
def rstatExcf (r : U32) : Bool := r.getLsbD 15
/-- RSTAT.REXC (R45). -/
def rstatExc (r : U32) : Byte := r.extractLsb' 16 8
/-- RSTAT.RADDR (R45). -/
def rstatAddr (r : U32) : Byte := r.extractLsb' 24 8

end Sys2Proof.Machine
end

