-- ==== Sys2Proof/Machine/Response.lean ====
section
/-! DEFINITION. The response decoders and classifier, units U3 to U5 (spec 42_std_codec.md R189 to R197,
43_lxp_codec.md R228 to R236, 44_classifier.md): one definition for both framings, as the spec allows, with header
length and byte order taken from the framing. -/

namespace Sys2Proof.Machine

/-- The decoded response record (R189, R228). Every field starts at 0 and a step sets only what it names; `kind` and
`need_more` are the functions of `diag` that R264 gives. -/
structure Decoded where
  diag : Diag
  addr : Byte := 0
  func : BitVec 7 := 0
  excf : Bool := false
  exc : Byte := 0
  rlen : Byte := 0
  rstart : U16 := 0
  rcount : U16 := 0
  values : List U16 := []
  rbser : Serial := zeroSerial
  rdser : Serial := zeroSerial
  serout : Serial := zeroSerial
  serValid : Bool := false
  deriving DecidableEq, Repr

/-- `sanitize(b)` (R232): both bounds inclusive. -/
def sanitize (b : Byte) : Byte := if 32 ≤ b.toNat ∧ b.toNat ≤ 126 then b else Config.serialPlaceholder

/-- The length of a data segment that is reported as a serial (R233): ten, in the Proprietary framing only (R198). -/
def reportsSerial (fr : Framing) (rlen : Nat) : Bool :=
  match fr with
  | .std => false
  | .lxp _ => rlen == 10

/-- The serial fields a framing reports of the header (R198, R229). -/
def headerReport (fr : Framing) (buf : List Byte) : Serial × Serial :=
  match fr with
  | .std => (zeroSerial, zeroSerial)
  | .lxp m => ((readSerials m buf).reportedBridge, (readSerials m buf).reportedDevice)

/-- Step 1, the header (R191, R229): what every later step reports, with the step's own diagnosis. -/
def headerOf (fr : Framing) (buf : List Byte) (d : Diag) : Decoded :=
  { diag := d
    addr := byteAt buf 0
    func := (byteAt buf 1).extractLsb' 0 7
    excf := (byteAt buf 1).getLsbD 7
    rbser := (headerReport fr buf).1
    rdser := (headerReport fr buf).2 }

/-- Step 4 for functions 3 and 4, a read response (R194, R233). -/
def decodeRead (fr : Framing) (buf : List Byte) : Decoded :=
  let hd := headerLength fr
  let rlen := byteAt buf hd
  if hd + 1 + rlen.toNat + 2 > buf.length then { headerOf fr buf .lengthExceedsBuffer with rlen := rlen }
  else
    let values := (List.range (rlen.toNat / 2)).map (fun i => get16 fr buf (hd + 1 + 2 * i))
    if reportsSerial fr rlen.toNat then
      { headerOf fr buf .none with
        rlen := rlen
        values := values
        serout := serialOf ((slice buf (hd + 1) (hd + 11)).map sanitize)
        serValid := true }
    else { headerOf fr buf .none with rlen := rlen, values := values }

/-- Step 4 for functions 6 and 16, a write echo (R195, R196, R234, R235). -/
def decodeEcho (fr : Framing) (buf : List Byte) : Decoded :=
  let hd := headerLength fr
  if buf.length < hd + 6 then headerOf fr buf .echoTooShort
  else { headerOf fr buf .none with rstart := get16 fr buf hd, rcount := get16 fr buf (hd + 2) }

/-- The response decoder of a framing (R190 to R197, R228 to R236): minimum length, header, exception path, checksum,
function code, in that order; the first that returns ends the decode. -/
def decodeResponse (fr : Framing) (buf : List Byte) : Decoded :=
  if buf.length < headerLength fr + 3 then { diag := .tooShort }
  else if (byteAt buf 1).getLsbD 7 then
    if crcOk buf = false then headerOf fr buf .crcMismatch
    else { headerOf fr buf .exceptionResponse with exc := byteAt buf (headerLength fr) }
  else if crcOk buf = false then headerOf fr buf .crcMismatch
  else
    match ((byteAt buf 1).extractLsb' 0 7).toNat with
    | 3 => decodeRead fr buf
    | 4 => decodeRead fr buf
    | 6 => decodeEcho fr buf
    | 16 => decodeEcho fr buf
    | _ => headerOf fr buf .unsupportedFunction

/-- `std_decode` (R189). -/
def stdDecode (buf : List Byte) : Decoded := decodeResponse .std buf

/-- `lxp_decode` (R228) under the strap `m`. -/
def lxpDecode (m : SerialMode) (buf : List Byte) : Decoded := decodeResponse (.lxp m) buf

end Sys2Proof.Machine
end

