-- ==== Sys2Proof/Machine/Ops.lean ====
section
/-! DEFINITION. The named operations over the arrays and registers, and how a command ends (spec 10_state.md,
60_exceptions.md R306, R307). The block takes no exception and returns from none: what stands in place of trap entry is
`failWith`, one write of CERR (R307), and in place of return nothing at all (R311). -/

namespace Sys2Proof.Machine

/-- The value element `i` holds, if it holds one. -/
def readCell {w : Nat} : Cells w → Nat → Option (BitVec w)
  | [], _ => none
  | (j, v) :: rest, i => if i = j then some v else readCell rest i

/-- The array after a write of element `i`: the element then holds the value, every other is as before. -/
def writeCell {w : Nat} : Cells w → Nat → BitVec w → Cells w
  | [], i, v => [(i, v)]
  | (j, u) :: rest, i, v =>
    if i < j then (i, v) :: (j, u) :: rest
    else if i = j then (i, v) :: rest
    else (j, u) :: writeCell rest i v

/-- Elements `k`, `k + 1`, ... hold the values of a list. -/
def cellsFrom {w : Nat} (k : Nat) : List (BitVec w) → Cells w
  | [] => []
  | v :: rest => (k, v) :: cellsFrom (k + 1) rest

/-- An array whose first elements are the values of a list and whose other elements hold no value (R49, R50). -/
def cellsOf {w : Nat} (l : List (BitVec w)) : Cells w := cellsFrom 0 l

/-- What a byte element yields when it is read: its value, or the free value of this access (U3, `any value`). -/
def byteCell (k : Nat) (c : Memory) (i : Nat) : Byte := (readCell c i).getD (Config.freeByte k i)

/-- What a u16 element yields when it is read: its value, or the free value of this access (U3, `any value`). -/
def u16Cell (k : Nat) (c : Cells 16) (i : Nat) : U16 := (readCell c i).getD (Config.freeU16 k i)

/-- CSTAT.CERR <- an error code; bits 7:4 of CSTAT are 0 (R44). -/
def State.setCerr (s : State) (e : CErr) : State := { s with cstat := cerrCode e }

/-- CRCACC <- v (R40). -/
def State.setCrcacc (s : State) (v : U16) : State := { s with crcacc := v }

/-- BFQ <- v (R41). -/
def State.setBfq (s : State) (v : U16) : State := { s with bfq := v }

/-- ADDR <- v, as STD.ADDR writes it (R181). -/
def State.setAddr (s : State) (v : Byte) : State := { s with addr := v }

/-- OBUF[0:len(f)] <- f and OLEN <- len(f); bytes at index OLEN and above become unspecified (R50). With no byte it is
the failed encoder's OLEN <- 0, OBUF unspecified (R187). -/
def State.putFrame (s : State) (f : List Byte) : State :=
  { s with obuf := cellsOf f, olen := BitVec.ofNat 16 f.length }

/-- The result registers of a decode, all of them (R53, R198, R237); RVAL[NVAL..126] become unspecified. -/
def State.latch (s : State) (d : Decoded) : State :=
  { s with
    rstat := packRstat d.diag d.serValid d.func d.excf d.exc d.addr
    rstart := d.rstart
    rcount := d.rcount
    nval := BitVec.ofNat 8 d.values.length
    rlen := d.rlen
    rval := cellsOf d.values
    rbser := d.rbser
    rdser := d.rdser
    serout := d.serout }

/-- The result of a command. -/
abbrev Result := Host.Outcome State Fault Refusal

/-- The end of a command that did its work: CERR <- 0 (R44, R306). -/
def complete (s : State) : Result := .next (s.setCerr .ok)

/-- What a failing command does in place of trap entry (R307): it writes CERR and ends. Nothing is saved, no mode or
mask changes and control goes nowhere. -/
def failWith (e : CErr) (s : State) : Result := .next (s.setCerr e)

/-- An encoder command that built a frame (R183, R185, R187, R225 to R227). -/
def emitFrame (f : List Byte) (s : State) : Result := complete (s.putFrame f)

/-- A write-multiple command with too many values (R187, R227): no frame, OLEN <- 0, OperandRange. -/
def rejectFrame (s : State) : Result := failWith .operandRange (s.putFrame [])

/-- A decode command (R198, R237): all decode results, then CERR <- 0 whatever the kind (R261). -/
def report (d : Decoded) (s : State) : Result := complete (s.latch d)

/-- A CMD write of a reserved opcode (R291): CERR <- 1 and nothing else. -/
def illegalCommand (s : State) : Result := failWith .illegalCommand s

end Sys2Proof.Machine
end

