-- ==== Sys2Proof/Machine/Operands.lean ====
section
/-! DEFINITION. How a command gathers its operands (spec 10_state.md R38 to R50, 30_encoding.md R110). A command has no
operand field of its own: every operand is a register or an array under a length register (R100). -/

namespace Sys2Proof.Machine

/-- IBUF[0:ILEN], the input byte sequence of CRC.BUF, STD.ADDR, STD.DEC and LXP.DEC (R42, R50). -/
def State.input (s : State) : List Byte := (List.range s.ilen.toNat).map (byteCell s.draws s.ibuf)

/-- WVAL[0:COUNT], the values of STD.WRN and LXP.WRN (R49). -/
def State.writeValues (s : State) : List U16 := (List.range s.count.toNat).map (u16Cell s.draws s.wval)

/-- COUNT is at most NVALMAX, the operand check of STD.WRN and LXP.WRN (R187, R227, R306). -/
def State.countInRange (s : State) : Bool := decide (s.count.toNat ≤ Config.nvalMax)

/-- BFPOS.OFFSET, bits 7:0 (R41). -/
def State.bfOffset (s : State) : Nat := (s.bfpos.extractLsb' 0 8).toNat

/-- BFPOS.WIDTH, bits 15:8 (R41). -/
def State.bfWidth (s : State) : Nat := (s.bfpos.extractLsb' 8 8).toNat

/-- The serial fields of a Proprietary request, from BSER and DSER as the strap selects (R47, R220). -/
def State.headerSerials (s : State) : HeaderSerials := selectSerials s.serialMode s.bser s.dser

end Sys2Proof.Machine
end

