-- ==== Sys2Proof/Machine/BitFieldUnit.lean ====
section
/-! DEFINITION. The commands of unit U2, the bit-field unit (spec 41_bitfield.md R163 to R165). -/

namespace Sys2Proof.Machine

/-- The end of a bit-field command: BFQ and CERR <- 0, or OperandRange with BFQ unchanged (R163). -/
def finishBitField (q : Option U16) (s : State) : Result :=
  match q with
  | some v => complete (s.setBfq v)
  | none => failWith .operandRange s

/-- BF.GET (R164). BFV is not read. -/
def execBfGet (s : State) : Result := finishBitField (getBits s.bfr s.bfOffset s.bfWidth) s

/-- BF.SET (R165). BFR is not changed. -/
def execBfSet (s : State) : Result := finishBitField (setBits s.bfr s.bfOffset s.bfWidth s.bfv) s

end Sys2Proof.Machine
end

