-- ==== Sys2Proof/Machine/CrcUnit.lean ====
section
/-! DEFINITION. The commands of unit U1, the CRC engine (spec 40_crc.md R143 to R145). -/

namespace Sys2Proof.Machine

/-- CRC.INIT (R143). -/
def execCrcInit (s : State) : Result := complete (s.setCrcacc Config.crcInit)

/-- CRC.BYTE (R144): CRCIN is folded into CRCACC and is not changed. -/
def execCrcByte (s : State) : Result := complete (s.setCrcacc (crcStep s.crcacc s.crcin))

/-- CRC.BUF (R145): the old CRCACC is ignored. -/
def execCrcBuf (s : State) : Result := complete (s.setCrcacc (crc16 s.input))

end Sys2Proof.Machine
end

