-- ==== Sys2Proof/Machine/LxpCodec.lean ====
section
/-! DEFINITION. The commands of unit U4, the Proprietary frame codec (spec 43_lxp_codec.md R225 to R227, R237). -/

namespace Sys2Proof.Machine

/-- LXP.RD (R225). -/
def execLxpRd (s : State) : Result := emitFrame (lxpEncRead s.addr s.fsel s.headerSerials s.start s.count) s

/-- LXP.WR1 (R226): START is the register, COUNT the value. -/
def execLxpWr1 (s : State) : Result := emitFrame (lxpEncWrite1 s.addr s.headerSerials s.start s.count) s

/-- LXP.WRN (R227). -/
def execLxpWrn (s : State) : Result :=
  if s.countInRange then emitFrame (lxpEncWriten s.addr s.headerSerials s.start s.writeValues) s else rejectFrame s

/-- LXP.DEC (R237). -/
def execLxpDec (s : State) : Result := report (lxpDecode s.serialMode s.input) s

end Sys2Proof.Machine
end

