-- ==== Sys2Proof/Machine/StdFrames.lean ====
section
/-! DEFINITION. The meanings of the Standard wire rows (spec 30_encoding.md R105, R106). A request row is built, a
response row is parsed (R116): its meaning is the effect its codec command has when it builds, or finds in IBUF, exactly
that frame. It is written here from the row's own fields, not from the bytes (assumption log 5). -/

namespace Sys2Proof.Machine

/-- A wire row's effect, refused for a term that no byte sequence encodes under the strap. -/
def ifEncodable (i : Instr) (s : State) (r : Result) : Result :=
  if i.wf s.serialMode then r else .refused .notEncodable

/-- STD.REQ.RD3 (R182): a read of Holding registers. -/
def execStdReqRd3 (address : Byte) (start count : U16) (s : State) : Result :=
  emitFrame (stdEncRead address 0 start count) s

/-- STD.REQ.RD4 (R182): a read of Input registers. -/
def execStdReqRd4 (address : Byte) (start count : U16) (s : State) : Result :=
  emitFrame (stdEncRead address 1 start count) s

/-- STD.REQ.WR1 (R184). -/
def execStdReqWr1 (address : Byte) (register value : U16) (s : State) : Result :=
  emitFrame (stdEncWrite1 address register value) s

/-- STD.REQ.WRN (R186). -/
def execStdReqWrn (address : Byte) (start : U16) (values : List U16) (s : State) : Result :=
  ifEncodable (.stdReqWrn address start values) s (emitFrame (stdEncWriten address start values) s)

/-- STD.RSP.EXC (R192): kind Exception, the code passed through. -/
def execStdRspExc (address : Byte) (func : BitVec 7) (code : Byte) (extra : List Byte) (s : State) : Result :=
  ifEncodable (.stdRspExc address func code extra) s
    (report { diag := .exceptionResponse, addr := address, func := func, excf := true, exc := code } s)

/-- STD.RSP.RD3 (R194): the values of the data segment, big-endian. -/
def execStdRspRd3 (address : Byte) (data extra : List Byte) (s : State) : Result :=
  ifEncodable (.stdRspRd3 address data extra) s
    (report { diag := .none, addr := address, func := 3, rlen := BitVec.ofNat 8 data.length,
              values := valuesOf .std data } s)

/-- STD.RSP.RD4 (R194). -/
def execStdRspRd4 (address : Byte) (data extra : List Byte) (s : State) : Result :=
  ifEncodable (.stdRspRd4 address data extra) s
    (report { diag := .none, addr := address, func := 4, rlen := BitVec.ofNat 8 data.length,
              values := valuesOf .std data } s)

/-- STD.RSP.WR1 (R195): the echoed register and value. -/
def execStdRspWr1 (address : Byte) (register value : U16) (extra : List Byte) (s : State) : Result :=
  ifEncodable (.stdRspWr1 address register value extra) s
    (report { diag := .none, addr := address, func := 6, rstart := register, rcount := value } s)

/-- STD.RSP.WRN (R196): the echoed start register and register count. -/
def execStdRspWrn (address : Byte) (start count : U16) (extra : List Byte) (s : State) : Result :=
  ifEncodable (.stdRspWrn address start count extra) s
    (report { diag := .none, addr := address, func := 16, rstart := start, rcount := count } s)

end Sys2Proof.Machine
end

