-- ==== Sys2Proof/Machine/LxpFrames.lean ====
section
/-! DEFINITION. The meanings of the Proprietary wire rows (spec 30_encoding.md R107 to R109), as in
Machine/StdFrames.lean. -/

namespace Sys2Proof.Machine

/-- LXP.REQ.RD3 (R222): a read of Holding registers. -/
def execLxpReqRd3 (address : Byte) (serials : HeaderSerials) (start count : U16) (s : State) : Result :=
  ifEncodable (.lxpReqRd3 address serials start count) s (emitFrame (lxpEncRead address 0 serials start count) s)

/-- LXP.REQ.RD4 (R222): a read of Input registers. -/
def execLxpReqRd4 (address : Byte) (serials : HeaderSerials) (start count : U16) (s : State) : Result :=
  ifEncodable (.lxpReqRd4 address serials start count) s (emitFrame (lxpEncRead address 1 serials start count) s)

/-- LXP.REQ.WR1 (R223). -/
def execLxpReqWr1 (address : Byte) (serials : HeaderSerials) (register value : U16) (s : State) : Result :=
  ifEncodable (.lxpReqWr1 address serials register value) s
    (emitFrame (lxpEncWrite1 address serials register value) s)

/-- LXP.REQ.WRN (R224). -/
def execLxpReqWrn (address : Byte) (serials : HeaderSerials) (start : U16) (values : List U16) (s : State) : Result :=
  ifEncodable (.lxpReqWrn address serials start values) s (emitFrame (lxpEncWriten address serials start values) s)

/-- LXP.RSP.EXC (R230). -/
def execLxpRspExc (address : Byte) (func : BitVec 7) (serials : HeaderSerials) (code : Byte) (extra : List Byte)
    (s : State) : Result :=
  ifEncodable (.lxpRspExc address func serials code extra) s
    (report { diag := .exceptionResponse, addr := address, func := func, excf := true, exc := code,
              rbser := serials.reportedBridge, rdser := serials.reportedDevice } s)

/-- The record of a Proprietary read response (R233): the values little-endian, and the ten bytes of a ten-byte data
segment sanitized as a serial. -/
def readReport (func : BitVec 7) (address : Byte) (serials : HeaderSerials) (data : List Byte) : Decoded :=
  { diag := .none
    addr := address
    func := func
    rlen := BitVec.ofNat 8 data.length
    values := valuesOf (.lxp .both) data
    rbser := serials.reportedBridge
    rdser := serials.reportedDevice
    serout := if data.length = 10 then serialOf (data.map sanitize) else zeroSerial
    serValid := data.length == 10 }

/-- LXP.RSP.RD3 (R233). -/
def execLxpRspRd3 (address : Byte) (serials : HeaderSerials) (data extra : List Byte) (s : State) : Result :=
  ifEncodable (.lxpRspRd3 address serials data extra) s (report (readReport 3 address serials data) s)

/-- LXP.RSP.RD4 (R233). -/
def execLxpRspRd4 (address : Byte) (serials : HeaderSerials) (data extra : List Byte) (s : State) : Result :=
  ifEncodable (.lxpRspRd4 address serials data extra) s (report (readReport 4 address serials data) s)

/-- LXP.RSP.WR1 (R234). -/
def execLxpRspWr1 (address : Byte) (serials : HeaderSerials) (register value : U16) (extra : List Byte)
    (s : State) : Result :=
  ifEncodable (.lxpRspWr1 address serials register value extra) s
    (report { diag := .none, addr := address, func := 6, rstart := register, rcount := value,
              rbser := serials.reportedBridge, rdser := serials.reportedDevice } s)

/-- LXP.RSP.WRN (R235). -/
def execLxpRspWrn (address : Byte) (serials : HeaderSerials) (start count : U16) (extra : List Byte)
    (s : State) : Result :=
  ifEncodable (.lxpRspWrn address serials start count extra) s
    (report { diag := .none, addr := address, func := 16, rstart := start, rcount := count,
              rbser := serials.reportedBridge, rdser := serials.reportedDevice } s)

end Sys2Proof.Machine
end

