-- ==== Sys2Proof/Machine/StdCodec.lean ====
section
/-! DEFINITION. The commands of unit U3, the Standard frame codec (spec 42_std_codec.md R181 to R187, R198). -/

namespace Sys2Proof.Machine

/-- STD.ADDR (R181): the one command that writes an operand register other than CRCACC. -/
def execStdAddr (s : State) : Result := complete (s.setAddr (resolveAddress s.input))

/-- STD.RD (R183). -/
def execStdRd (s : State) : Result := emitFrame (stdEncRead s.addr s.fsel s.start s.count) s

/-- STD.WR1 (R185): START is the register, COUNT the value; FSEL and WVAL are not read. -/
def execStdWr1 (s : State) : Result := emitFrame (stdEncWrite1 s.addr s.start s.count) s

/-- STD.WRN (R187). -/
def execStdWrn (s : State) : Result :=
  if s.countInRange then emitFrame (stdEncWriten s.addr s.start s.writeValues) s else rejectFrame s

/-- STD.DEC (R198). -/
def execStdDec (s : State) : Result := report (stdDecode s.input) s

end Sys2Proof.Machine
end

