-- ==== Sys2Proof/Machine/System.lean ====
section
/-! DEFINITION. The system command (spec 45_system.md R290). -/

namespace Sys2Proof.Machine

/-- NOP (R290): CERR <- 0 and nothing else. -/
def execNop (s : State) : Result := complete s

end Sys2Proof.Machine
end

