-- ==== Sys2Proof/Machine/Dispatch.lean ====
section
/-! DEFINITION. The one dispatch from an instruction to its meaning. -/

namespace Sys2Proof.Machine

def exec (i : Instr) (s : State) : Host.Outcome State Fault Refusal :=
  match i with
  | .nop => Sys2Proof.Machine.execNop s
  | .crcInit => Sys2Proof.Machine.execCrcInit s
  | .crcByte => Sys2Proof.Machine.execCrcByte s
  | .crcBuf => Sys2Proof.Machine.execCrcBuf s
  | .bfGet => Sys2Proof.Machine.execBfGet s
  | .bfSet => Sys2Proof.Machine.execBfSet s
  | .stdAddr => Sys2Proof.Machine.execStdAddr s
  | .stdRd => Sys2Proof.Machine.execStdRd s
  | .stdWr1 => Sys2Proof.Machine.execStdWr1 s
  | .stdWrn => Sys2Proof.Machine.execStdWrn s
  | .stdDec => Sys2Proof.Machine.execStdDec s
  | .lxpRd => Sys2Proof.Machine.execLxpRd s
  | .lxpWr1 => Sys2Proof.Machine.execLxpWr1 s
  | .lxpWrn => Sys2Proof.Machine.execLxpWrn s
  | .lxpDec => Sys2Proof.Machine.execLxpDec s
  | .stdReqRd3 address start count => Sys2Proof.Machine.execStdReqRd3 address start count s
  | .stdReqRd4 address start count => Sys2Proof.Machine.execStdReqRd4 address start count s
  | .stdReqWr1 address register value => Sys2Proof.Machine.execStdReqWr1 address register value s
  | .stdReqWrn address start values => Sys2Proof.Machine.execStdReqWrn address start values s
  | .stdRspExc address func code extra => Sys2Proof.Machine.execStdRspExc address func code extra s
  | .stdRspRd3 address data extra => Sys2Proof.Machine.execStdRspRd3 address data extra s
  | .stdRspRd4 address data extra => Sys2Proof.Machine.execStdRspRd4 address data extra s
  | .stdRspWr1 address register value extra => Sys2Proof.Machine.execStdRspWr1 address register value extra s
  | .stdRspWrn address start count extra => Sys2Proof.Machine.execStdRspWrn address start count extra s
  | .lxpReqRd3 address serials start count => Sys2Proof.Machine.execLxpReqRd3 address serials start count s
  | .lxpReqRd4 address serials start count => Sys2Proof.Machine.execLxpReqRd4 address serials start count s
  | .lxpReqWr1 address serials register value => Sys2Proof.Machine.execLxpReqWr1 address serials register value s
  | .lxpReqWrn address serials start values => Sys2Proof.Machine.execLxpReqWrn address serials start values s
  | .lxpRspExc address func serials code extra => Sys2Proof.Machine.execLxpRspExc address func serials code extra s
  | .lxpRspRd3 address serials data extra => Sys2Proof.Machine.execLxpRspRd3 address serials data extra s
  | .lxpRspRd4 address serials data extra => Sys2Proof.Machine.execLxpRspRd4 address serials data extra s
  | .lxpRspWr1 address serials register value extra => Sys2Proof.Machine.execLxpRspWr1 address serials register value extra s
  | .lxpRspWrn address serials start count extra => Sys2Proof.Machine.execLxpRspWrn address serials start count extra s

end Sys2Proof.Machine
end

