-- ==== Sys2Proof/Machine/HostPort.lean ====
section
/-! DEFINITION. The register map and the two host primitives, less the command a CMD write starts (spec 10_state.md
R55, R56, 20_memory.md R75 to R81). -/

namespace Sys2Proof.Machine

/-- The registers and elements of the map (R55). START is also REG and COUNT is also VALUE (R39). -/
inductive Loc where
  | cmd
  | cstat
  | crcacc
  | crcin
  | bfr
  | bfpos
  | bfv
  | bfq
  | addr
  | fsel
  | start
  | count
  | ilen
  | olen
  | rstat
  | rstart
  | rcount
  | nval
  | rlen
  | bser (i : Nat)
  | dser (i : Nat)
  | rbser (i : Nat)
  | rdser (i : Nat)
  | serout (i : Nat)
  | wval (i : Nat)
  | rval (i : Nat)
  | ibuf (i : Nat)
  | obuf (i : Nat)
  deriving DecidableEq, Repr

/-- The index of an element of an array of `n` elements of `size` bytes that starts at `base`: only the first byte of
an element is mapped (R55, R79). -/
def elementAt (base size n off : Nat) : Option Nat :=
  if base ≤ off ∧ off < base + size * n ∧ (off - base) % size = 0 then some ((off - base) / size) else none

/-- The array elements of the map (R55). -/
def elementLoc (off : Nat) : Option Loc :=
  if off < 0x060 then (elementAt 0x050 1 10 off).map .bser
  else if off < 0x070 then (elementAt 0x060 1 10 off).map .dser
  else if off < 0x080 then (elementAt 0x070 1 10 off).map .rbser
  else if off < 0x090 then (elementAt 0x080 1 10 off).map .rdser
  else if off < 0x100 then (elementAt 0x090 1 10 off).map .serout
  else if off < 0x200 then (elementAt 0x100 2 Config.nvalMax off).map .wval
  else if off < 0x400 then (elementAt 0x200 2 Config.nvalMax off).map .rval
  else if off < 0x600 then (elementAt 0x400 1 Config.bufSize off).map .ibuf
  else (elementAt 0x600 1 Config.bufSize off).map .obuf

/-- The register map (R55): the register or element whose first byte is at an offset; `none` is an unmapped offset
(R79). -/
def locate (off : Nat) : Option Loc :=
  match off with
  | 0x000 => some .cmd
  | 0x004 => some .cstat
  | 0x008 => some .crcacc
  | 0x00C => some .crcin
  | 0x010 => some .bfr
  | 0x014 => some .bfpos
  | 0x018 => some .bfv
  | 0x01C => some .bfq
  | 0x020 => some .addr
  | 0x024 => some .fsel
  | 0x028 => some .start
  | 0x02C => some .count
  | 0x030 => some .ilen
  | 0x034 => some .olen
  | 0x038 => some .rstat
  | 0x03C => some .rstart
  | 0x040 => some .rcount
  | 0x044 => some .nval
  | 0x048 => some .rlen
  | _ => elementLoc off

/-- The block occupies offsets 0x000 to 0x7FF (R55). -/
def blockSize : Nat := 0x800

/-- `HostRead` of a mapped register or element (R56, R81): its value zero-extended; CMD reads 0; an element that holds
no value yields the free value of this access. No read has a side effect. -/
def hostRead (s : State) : Loc → U32
  | .cmd => 0
  | .cstat => s.cstat.setWidth 32
  | .crcacc => s.crcacc.setWidth 32
  | .crcin => s.crcin.setWidth 32
  | .bfr => s.bfr.setWidth 32
  | .bfpos => s.bfpos.setWidth 32
  | .bfv => s.bfv.setWidth 32
  | .bfq => s.bfq.setWidth 32
  | .addr => s.addr.setWidth 32
  | .fsel => s.fsel.setWidth 32
  | .start => s.start.setWidth 32
  | .count => s.count.setWidth 32
  | .ilen => s.ilen.setWidth 32
  | .olen => s.olen.setWidth 32
  | .rstat => s.rstat
  | .rstart => s.rstart.setWidth 32
  | .rcount => s.rcount.setWidth 32
  | .nval => s.nval.setWidth 32
  | .rlen => s.rlen.setWidth 32
  | .bser i => (serialGet s.bser i).setWidth 32
  | .dser i => (serialGet s.dser i).setWidth 32
  | .rbser i => (serialGet s.rbser i).setWidth 32
  | .rdser i => (serialGet s.rdser i).setWidth 32
  | .serout i => (serialGet s.serout i).setWidth 32
  | .wval i => (u16Cell s.draws s.wval i).setWidth 32
  | .rval i => (u16Cell s.draws s.rval i).setWidth 32
  | .ibuf i => (byteCell s.draws s.ibuf i).setWidth 32
  | .obuf i => (byteCell s.draws s.obuf i).setWidth 32

/-- `HostWrite` of a mapped register or element (R56), but for the command that a write to CMD starts: a read-write
register keeps the low bits of the number, ILEN clamps it to BUF_SIZE (R42), a read-only one ignores it. -/
def hostStore (s : State) (v : Nat) : Loc → State
  | .cmd => s
  | .cstat => s
  | .crcacc => { s with crcacc := BitVec.ofNat 16 v }
  | .crcin => { s with crcin := BitVec.ofNat 8 v }
  | .bfr => { s with bfr := BitVec.ofNat 16 v }
  | .bfpos => { s with bfpos := BitVec.ofNat 16 v }
  | .bfv => { s with bfv := BitVec.ofNat 16 v }
  | .bfq => s
  | .addr => { s with addr := BitVec.ofNat 8 v }
  | .fsel => { s with fsel := BitVec.ofNat 1 v }
  | .start => { s with start := BitVec.ofNat 16 v }
  | .count => { s with count := BitVec.ofNat 16 v }
  | .ilen => { s with ilen := BitVec.ofNat 16 (min v Config.bufSize) }
  | .olen => s
  | .rstat => s
  | .rstart => s
  | .rcount => s
  | .nval => s
  | .rlen => s
  | .bser i => { s with bser := serialSet s.bser i (BitVec.ofNat 8 v) }
  | .dser i => { s with dser := serialSet s.dser i (BitVec.ofNat 8 v) }
  | .rbser _ => s
  | .rdser _ => s
  | .serout _ => s
  | .wval i => { s with wval := writeCell s.wval i (BitVec.ofNat 16 v) }
  | .rval _ => s
  | .ibuf i => { s with ibuf := writeCell s.ibuf i (BitVec.ofNat 8 v) }
  | .obuf _ => s

/-- The state once the host's next access has arrived: it is no longer pending, what the last one returned is gone, and
the free values of this access are its own. -/
def State.arrive (s : State) (rest : List HostEvent) : State :=
  { s with pending := rest, reply := none, draws := s.draws + 1 }

/-- What a HostRead leaves (R81): the value returned, and nothing else changed. -/
def State.answer (s : State) (v : U32) : State := { s with reply := some v }

/-- The reset input (R340): every register at its reset value; the strap is not changed, the accesses still to come
remain to come, and the free values go on. -/
def State.onReset (s : State) : State :=
  { State.reset with serialMode := s.serialMode, pending := s.pending, draws := s.draws }

end Sys2Proof.Machine
end

