-- ==== Sys2Proof/Machine/Access.lean ====
section
/-! DEFINITION. One host access, the block's unit of time (spec 20_memory.md R81, R82, 70_reset_and_hazards.md R360),
and how each row of the table comes to be run. -/

namespace Sys2Proof.Machine

/-- A write to CMD (R43, R81): bits 7:0 of the number select the command, which runs to completion; a reserved opcode is
an illegal command (R102, R291). -/
def runCommand (v : Nat) (s : State) : Result :=
  match decode s.serialMode .cmd [BitVec.ofNat 8 v] with
  | .ok i => exec i s
  | .error _ => illegalCommand s

/-- A mapped register or element is reached; another offset of the block is refused (R79), and one beyond the block
does not exist (R55). -/
def withLoc (off : Nat) (k : Loc → Result) : Result :=
  if blockSize ≤ off then .fault (.outsideBlock off)
  else
    match locate off with
    | some loc => k loc
    | none => .refused (.unmappedOffset off)

/-- A host write at a mapped place: CMD runs a command, anything else stores (R56, R77). -/
def writeLoc (v : Nat) (s : State) (loc : Loc) : Result :=
  match loc with
  | .cmd => runCommand v s
  | loc => .next (hostStore s v loc)

/-- One host access on a state at which it has arrived. -/
def access (e : HostEvent) (s : State) : Result :=
  match e with
  | .read off => withLoc off (fun loc => .next (s.answer (hostRead s loc)))
  | .write off v => withLoc off (writeLoc v s)
  | .reset => .next s.onReset

/-- The offset of CMD (R55). -/
def cmdOffset : Nat := 0x000

/-- The state with a CMD write of `op` as the next host access. -/
def State.issue (s : State) (op : Nat) : State := { s with pending := .write cmdOffset op :: s.pending }

/-- Successive host writes of array elements from index `k` on (R115, LDI and LDV). -/
def writeCells {w : Nat} (k : Nat) : List (BitVec w) → Cells w → Cells w
  | [], c => c
  | v :: rest, c => writeCells (k + 1) rest (writeCell c k v)

/-- IBUF[0:n] and ILEN hold a byte sequence (R115, LDI). -/
def State.loadInput (s : State) (buf : List Byte) : State :=
  { s with ibuf := writeCells 0 buf s.ibuf, ilen := BitVec.ofNat 16 buf.length }

/-- WVAL[0:n] and COUNT hold the values of a write-multiple (R115, LDV). -/
def State.loadValues (s : State) (values : List U16) : State :=
  { s with wval := writeCells 0 values s.wval, count := BitVec.ofNat 16 values.length }

/-- BSER and DSER hold the serials a header carries (R115, LDS). -/
def State.loadSerials (s : State) : HeaderSerials → State
  | .both b d => { s with bser := b, dser := d }
  | .device d => { s with dser := d }
  | .bridge b => { s with bser := b }

/-- ADDR, START and COUNT (or REG and VALUE) hold the fields of a request (R110). -/
def State.loadFields (s : State) (address : Byte) (start count : U16) : State :=
  { s with addr := address, start := start, count := count }

/-- The operand registers with which a row's command builds its frame, or the buffer in which it finds it. A command row
needs none. -/
def State.loadOperands (s : State) (i : Instr) : State :=
  match i with
  | .stdReqRd3 a start count => { s.loadFields a start count with fsel := 0 }
  | .stdReqRd4 a start count => { s.loadFields a start count with fsel := 1 }
  | .stdReqWr1 a register value => s.loadFields a register value
  | .stdReqWrn a start values => (s.loadFields a start 0).loadValues values
  | .lxpReqRd3 a ser start count => { (s.loadSerials ser).loadFields a start count with fsel := 0 }
  | .lxpReqRd4 a ser start count => { (s.loadSerials ser).loadFields a start count with fsel := 1 }
  | .lxpReqWr1 a ser register value => (s.loadSerials ser).loadFields a register value
  | .lxpReqWrn a ser start values => ((s.loadSerials ser).loadFields a start 0).loadValues values
  | .stdRspExc .. | .stdRspRd3 .. | .stdRspRd4 .. | .stdRspWr1 .. | .stdRspWrn ..
  | .lxpRspExc .. | .lxpRspRd3 .. | .lxpRspRd4 .. | .lxpRspWr1 .. | .lxpRspWrn .. => s.loadInput (encode i)
  | .nop | .crcInit | .crcByte | .crcBuf | .bfGet | .bfSet | .stdAddr | .stdRd | .stdWr1 | .stdWrn | .stdDec
  | .lxpRd | .lxpWr1 | .lxpWrn | .lxpDec => s

/-- The opcode whose command runs a row: a command's own, a request row's encoder, a response row's decoder (R101,
R104). -/
def carrierOpcode : Instr → Nat
  | .nop => 0x00
  | .crcInit => 0x01
  | .crcByte => 0x02
  | .crcBuf => 0x03
  | .bfGet => 0x08
  | .bfSet => 0x09
  | .stdAddr => 0x10
  | .stdRd => 0x11
  | .stdWr1 => 0x12
  | .stdWrn => 0x13
  | .stdDec => 0x14
  | .lxpRd => 0x21
  | .lxpWr1 => 0x22
  | .lxpWrn => 0x23
  | .lxpDec => 0x24
  | .stdReqRd3 .. | .stdReqRd4 .. => 0x11
  | .stdReqWr1 .. => 0x12
  | .stdReqWrn .. => 0x13
  | .stdRspExc .. | .stdRspRd3 .. | .stdRspRd4 .. | .stdRspWr1 .. | .stdRspWrn .. => 0x14
  | .lxpReqRd3 .. | .lxpReqRd4 .. => 0x21
  | .lxpReqWr1 .. => 0x22
  | .lxpReqWrn .. => 0x23
  | .lxpRspExc .. | .lxpRspRd3 .. | .lxpRspRd4 .. | .lxpRspWr1 .. | .lxpRspWrn .. => 0x24

/-- The state in which the next host access runs `i`: its operands loaded and its command about to be written to CMD
(assumption log 4). -/
def State.present (s : State) (i : Instr) : State := (s.loadOperands i).issue (carrierOpcode i)

/-- `withFetchWord` (Machine/Step.lean): the state presents the instruction of the table word; a word that is none is what
the host writes to CMD next. -/
def State.fetchWord (s : State) (nbits w : Nat) : State :=
  match decodeTableWord nbits w with
  | some i => s.present i
  | none => s.issue (w % 256)

end Sys2Proof.Machine
end

