-- ==== Sys2Proof/Machine/Step.lean ====
section
/-! DEFINITION. One step of the block: the host's next access, with the whole command it starts (spec 20_memory.md R82,
70_reset_and_hazards.md R360). -/

namespace Sys2Proof.Machine

/-- With no access pending the block is idle and waits, its state unchanged (R307, R318). -/
def step (s : State) : Host.Outcome State Fault Refusal :=
  match s.pending with
  | [] => .next s
  | e :: rest => access e (s.arrive rest)

/-- The state in which the next step runs the instruction of a table word (assumption log 4). -/
def State.withFetchWord (s : State) (nbits w : Nat) : State := s.fetchWord nbits w

end Sys2Proof.Machine
end

