-- ==== Sys2Proof/Machine/Operation.lean ====
section
/-! DEFINITION. The abstract data model above the registers (spec 10_state.md R31, R32, R36, R57), the pseudo-instructions
of host programs (30_encoding.md R115), and the reference responder of 95_test_vectors.md section 6, which is test-bench
code and no part of the block. -/

namespace Sys2Proof.Machine

/-- `HoldingOrInput` (R31). -/
inductive RegisterClass where
  | holding
  | input
  deriving DecidableEq, Repr

/-- A logical operation (R31). -/
inductive LogicalOp where
  | readRegisters (function : RegisterClass) (start count : U16)
  | writeRegister (register value : U16)
  | writeRegisters (start : U16) (values : List U16)
  deriving DecidableEq, Repr

/-- An addressing mode (R32): the address byte, and for the Proprietary framing the serials beside it (R220). -/
inductive Addressing where
  | standard (address : Byte)
  | serialPair (address : Byte) (bridge device : Serial)
  deriving DecidableEq, Repr

/-- The FSEL value of a register class (R39). -/
def fselOf : RegisterClass → BitVec 1
  | .holding => 0
  | .input => 1

/-- The Standard construction entry points (R101): the request of a logical operation. -/
def stdEncodeOp (addr : Byte) : LogicalOp → List Byte
  | .readRegisters f start count => stdEncRead addr (fselOf f) start count
  | .writeRegister register value => stdEncWrite1 addr register value
  | .writeRegisters start values => stdEncWriten addr start values

/-- The Proprietary construction entry points (R101). -/
def lxpEncodeOp (addr : Byte) (ser : HeaderSerials) : LogicalOp → List Byte
  | .readRegisters f start count => lxpEncRead addr (fselOf f) ser start count
  | .writeRegister register value => lxpEncWrite1 addr ser register value
  | .writeRegisters start values => lxpEncWriten addr ser start values

/-- The operand registers of a logical operation (R31, R39, R49). -/
def State.loadOp (s : State) : LogicalOp → State
  | .readRegisters f start count => { s with fsel := fselOf f, start := start, count := count }
  | .writeRegister register value => { s with start := register, count := value }
  | .writeRegisters start values => { s with start := start }.loadValues values

/-- The Standard encoder command of a logical operation (R101). -/
def stdCommandOf : LogicalOp → Instr
  | .readRegisters .. => .stdRd
  | .writeRegister .. => .stdWr1
  | .writeRegisters .. => .stdWrn

/-- The Proprietary encoder command of a logical operation (R101). -/
def lxpCommandOf : LogicalOp → Instr
  | .readRegisters .. => .lxpRd
  | .writeRegister .. => .lxpWr1
  | .writeRegisters .. => .lxpWrn

/-- OBUF[0:OLEN], the frame the host copies to the transport (R50). -/
def State.output (s : State) : List Byte := (List.range s.olen.toNat).map (byteCell s.draws s.obuf)

/-- The abstract decoded response (R36). -/
structure DecodedResponse where
  kind : Kind
  values : List (Nat × U16)
  exceptionCode : Option Byte
  diagnostic : Option String
  deriving DecidableEq, Repr

/-- RVAL[0:NVAL] keyed by offset from the start register of the request (R37). -/
def State.readValues (s : State) : List (Nat × U16) :=
  (List.range s.nval.toNat).map (fun i => (i, u16Cell s.draws s.rval i))

/-- From the result registers back to the abstract decoded response (R57). -/
def State.decodedResponse (s : State) : DecodedResponse :=
  let kind := kindOfCode (rstatKind s.rstat)
  { kind := kind
    values :=
      match kind with
      | .success =>
        match (rstatFunc s.rstat).toNat with
        | 3 => s.readValues
        | 4 => s.readValues
        | 6 => [(s.rstart.toNat, s.rcount)]
        | _ => []
      | _ => []
    exceptionCode := if kind = .exception then some (rstatExc s.rstat) else none
    diagnostic := (diagOfCode (rstatDiag s.rstat)).map (fun d => diagString d (rstatExc s.rstat)) }

/-- One CRC.BYTE for each byte of a sequence, the byte put into CRCIN first (R142 (b)). -/
def streamCrc : List Byte → State → Result
  | [], s => .next s
  | b :: rest, s =>
    match exec .crcByte { s with crcin := b } with
    | .next t => streamCrc rest t
    | r => r

/-- `CMD <mnemonic>` (R114). -/
def cmdLine (op : Nat) : HostEvent := .write cmdOffset op

/-- Successive writes of the elements of an array at `base`, `size` bytes apart (R115). -/
def writeElements (base size : Nat) (l : List Nat) : List HostEvent :=
  (List.range l.length).map (fun i => .write (base + size * i) (l.getD i 0))

/-- `LDI b0 ... b(n-1)` (R115). -/
def ldi (l : List Byte) : List HostEvent := writeElements 0x400 1 (l.map BitVec.toNat) ++ [.write 0x030 l.length]

/-- `LDV v0 ... v(n-1)` (R115). -/
def ldv (l : List U16) : List HostEvent := writeElements 0x100 2 (l.map BitVec.toNat) ++ [.write 0x02C l.length]

/-- `LDS BSER, "..."` (R115). -/
def ldsBser (s : Serial) : List HostEvent := writeElements 0x050 1 ((serialBytes s).map BitVec.toNat)

/-- `LDS DSER, "..."` (R115). -/
def ldsDser (s : Serial) : List HostEvent := writeElements 0x060 1 ((serialBytes s).map BitVec.toNat)

/-- `BFPOS o, w` (R115). -/
def bfposLine (o w : Nat) : HostEvent := .write 0x014 (o + 256 * w)

/-- `CRC16 b0 ... b(n-1)` (R115). -/
def crc16Lines (l : List Byte) : List HostEvent := ldi l ++ [cmdLine 0x03, .read 0x008]

/-- `RDO` (R115), for the OLEN its first read returns. -/
def rdo (olen : Nat) : List HostEvent := .read 0x034 :: (List.range olen).map (fun i => .read (0x600 + i))

/-- The registers a device holds, a partial map (95_test_vectors.md section 6): the first entry for a number counts. -/
def deviceRegister (regs : List (Nat × U16)) (n : Nat) : Option U16 := readCell regs n

/-- `count` register values from `start` on, if the device has them all. -/
def deviceBlock (regs : List (Nat × U16)) (start : Nat) : Nat → Option (List U16)
  | 0 => some []
  | n + 1 =>
    match deviceRegister regs start, deviceBlock regs (start + 1) n with
    | some v, some rest => some (v :: rest)
    | _, _ => none

/-- The exception response of a device with code `code` (section 6). -/
def deviceException (fr : Framing) (req : List Byte) (code : Byte) : List Byte :=
  closeFrame ([byteAt req 0, byteAt req 1 ||| 0x80] ++ slice req 2 (headerLength fr) ++ [code])

/-- `respond(req, regs)` (95_test_vectors.md section 6). -/
def respond (fr : Framing) (req : List Byte) (regs : List (Nat × U16)) : List Byte :=
  let hd := headerLength fr
  let f := (byteAt req 1).toNat
  if f = 3 ∨ f = 4 then
    let count := (get16 fr req (hd + 2)).toNat
    match deviceBlock regs (get16 fr req hd).toNat count with
    | some values =>
      if count = 0 ∨ Config.nvalMax < count then deviceException fr req 0x02
      else closeFrame (slice req 0 hd ++ [BitVec.ofNat 8 (2 * count)] ++ values.flatMap (put16 fr))
    | none => deviceException fr req 0x02
  else if f = 6 then req
  else if f = 16 then closeFrame (slice req 0 (hd + 4))
  else deviceException fr req 0x01

end Sys2Proof.Machine
end

