-- ==== Sys2Proof/Safety.lean ====
section
/-! DEFINITION. What counts as a good state and as a safe run: the values the spec says never occur (spec 10_state.md
R42 to R50, 44_classifier.md R264 to R266, 93_implementation_defined.md U8), and the accesses that reach something. -/

namespace Sys2Proof.Machine

/-- The invariant of the block. Every clause is a value range or a relation of registers that the spec states. -/
structure Inv (s : State) : Prop where
  /-- CERR values 3 to 15 never occur and bits 7:4 of CSTAT are 0 (R44). -/
  cstat_legal : s.cstat.toNat ≤ 2
  /-- ILEN is always in 0..BUF_SIZE (R42). -/
  ilen_fits : s.ilen.toNat ≤ Config.bufSize
  /-- OLEN is always in 0..BUF_SIZE (R42). -/
  olen_fits : s.olen.toNat ≤ Config.bufSize
  /-- The elements of OBUF that hold a value are OBUF[0:OLEN] (R50). -/
  obuf_valid : s.obuf.map Prod.fst = List.range s.olen.toNat
  /-- NVAL is in 0..127 (R46). -/
  nval_fits : s.nval.toNat ≤ Config.nvalMax
  /-- The elements of RVAL that hold a value are RVAL[0:NVAL] (R49). -/
  rval_valid : s.rval.map Prod.fst = List.range s.nval.toNat
  /-- IBUF is in its canonical form, all indices below BUF_SIZE (R50). -/
  ibuf_wf : Memory.wf s.ibuf = true
  /-- OBUF is in its canonical form (R50). -/
  obuf_wf : Memory.wf s.obuf = true
  /-- WVAL is in its canonical form, all indices below NVALMAX (R49). -/
  wval_wf : cellsWf Config.nvalMax s.wval = true
  /-- RVAL is in its canonical form (R49). -/
  rval_wf : cellsWf Config.nvalMax s.rval = true
  /-- DIAG is 0 to 6, KIND is the kind that goes with it, NEED_MORE is 1 exactly for DIAG 1, 2 and 3 (R264, R265). -/
  status_legal : ∃ d : Diag, rstatDiag s.rstat = diagCode d ∧ rstatKind s.rstat = kindCode (diagKind d) ∧
    rstatNeedMore s.rstat = diagNeedMore d
  /-- Whenever KIND is not Success: NVAL, RSTART, RCOUNT and SER_VALID are 0 (R266). -/
  no_payload : rstatKind s.rstat ≠ kindCode .success →
    s.nval = 0 ∧ s.rstart = 0 ∧ s.rcount = 0 ∧ rstatSerValid s.rstat = false
  /-- REXC is nonzero only for Exception (R266). -/
  exc_only : rstatKind s.rstat ≠ kindCode .exception → rstatExc s.rstat = 0
  /-- RLEN is nonzero only for a read response, function 3 or 4 (R46). -/
  rlen_read : s.rlen ≠ 0 → rstatFunc s.rstat = 3 ∨ rstatFunc s.rstat = 4
  /-- SER_VALID goes with a ten-byte data segment (R45, R233). -/
  serial_length : rstatSerValid s.rstat = true → s.rlen = 10
  /-- SEROUT is ten zero bytes unless SER_VALID (R48). -/
  serial_clear : rstatSerValid s.rstat = false → s.serout = zeroSerial

/-- An access that reaches a register, an element or the reset input (R55, R340). -/
def reaches : HostEvent → Bool
  | .read off => (locate off).isSome
  | .write off _ => (locate off).isSome
  | .reset => true

/-- A safe program: every access still to come reaches something. -/
def Safe (s : State) : Prop := ∀ e ∈ s.pending, reaches e = true

/-- The machine goes on. -/
def Continues (s : State) : Prop := ∃ t, step s = .next t

/-- The operand registers and arrays (R38), the strap, and the model's own fields agree: two states may then differ in
result registers and in CRCACC only (R53). -/
structure SameOperands (s t : State) : Prop where
  serialMode : s.serialMode = t.serialMode
  crcin : s.crcin = t.crcin
  bfr : s.bfr = t.bfr
  bfpos : s.bfpos = t.bfpos
  bfv : s.bfv = t.bfv
  addr : s.addr = t.addr
  fsel : s.fsel = t.fsel
  start : s.start = t.start
  count : s.count = t.count
  ilen : s.ilen = t.ilen
  bser : s.bser = t.bser
  dser : s.dser = t.dser
  wval : s.wval = t.wval
  ibuf : s.ibuf = t.ibuf
  pending : s.pending = t.pending
  reply : s.reply = t.reply
  draws : s.draws = t.draws

end Sys2Proof.Machine
end

