-- ==== Sys2Proof/Certificates/Slice0/Obligations.lean ====
section
/-! DEFINITION. The statements for the provers, grouped as the spec's files are. Register updates are written as record
updates of the state, so that every field not named in one is unchanged. -/

open Sys2Proof Sys2Proof.Machine

/-! ### Encoding (30_encoding.md) -/

/-- Decoding the encoding of a well-formed instruction gives the instruction back, in its own decoding space, with every
operand at every value the encoding admits (R101, R105, R106, R108, R109). -/
def Obligations.DecodeOfEncodeIsTheInstruction : Prop :=
  ∀ (m : SerialMode) (i : Instr), i.wf m = true → decode m i.space (encode i) = .ok i

/-- Whatever bytes decode, they are the encoding of what they decode to, which is well-formed and of that space: no bit
of a frame is dropped and no byte sequence outside a row's format is taken for it. -/
def Obligations.EncodeOfDecodeIsTheBytes : Prop :=
  ∀ (m : SerialMode) (sp : Space) (b : List Byte) (i : Instr), decode m sp b = .ok i →
    encode i = b ∧ i.wf m = true ∧ i.space = sp

/-- Words of the spec's tables and scenarios (R101, R183, R185, R187, R198, R301) decode to the instruction they stand
for. -/
def Obligations.WordsOfTheSpecDecode : Prop :=
  decode .both .cmd [0x03] = .ok .crcBuf ∧ decode .both .cmd [0x14] = .ok .stdDec ∧
  decode .both .cmd [0x21] = .ok .lxpRd ∧
  decode .both .stdReq [0x01, 0x04, 0x00, 0x07, 0x00, 0x02, 0xC0, 0x0A] = .ok (.stdReqRd4 1 7 2) ∧
  decode .both .stdReq [0x01, 0x06, 0x00, 0x15, 0x12, 0x34, 0x95, 0x79] = .ok (.stdReqWr1 1 0x15 0x1234) ∧
  decode .both .stdReq [0x01, 0x10, 0x00, 0x40, 0x00, 0x02, 0x04, 0x00, 0x0A, 0x01, 0x02, 0x57, 0xCC] =
    .ok (.stdReqWrn 1 0x40 [0x000A, 0x0102]) ∧
  decode .both .stdRsp [0x01, 0x04, 0x04, 0x00, 0x7B, 0x01, 0xC8, 0x8B, 0x9B] =
    .ok (.stdRspRd4 1 [0x00, 0x7B, 0x01, 0xC8] []) ∧
  decode .both .stdRsp [0x01, 0x84, 0x02, 0xC2, 0xC1] = .ok (.stdRspExc 1 4 2 [])

/-! ### The step and the host port (10_state.md, 20_memory.md, 70_reset_and_hazards.md) -/

/-- A write to CMD whose low byte decodes to a command runs exactly that command, on the state at which the access has
arrived: it is no longer pending, the last access's reply is gone, and the count of accesses has gone up by one. A read of
CMD returns 0 and changes nothing: CMD holds no value (R43). -/
def Obligations.StepRunsTheCommandWritten : Prop :=
  ∀ (s : State) (v : Nat) (rest : List HostEvent) (i : Instr),
    (s.pending = .write 0x000 v :: rest → decode s.serialMode .cmd [BitVec.ofNat 8 v] = .ok i →
      step s = exec i { s with pending := rest, reply := none, draws := s.draws + 1 }) ∧
    (s.pending = .read 0x000 :: rest →
      step s = .next { s with pending := rest, reply := some 0, draws := s.draws + 1 })

/-- Every well-formed row of the table, a wire row too, is run by the step that follows its presentation: the encoder or
decoder command, started by the host on the row's operands or bytes, does what the row's meaning says (the model's
choice of how a wire row is run: assumption log 4 and 5). -/
def Obligations.StepRunsThePresentedInstruction : Prop :=
  ∀ (s : State) (i : Instr), i.wf s.serialMode = true →
    step (s.present i) = exec i ((s.present i).arrive s.pending)

/-- With no host access pending the block waits, unchanged (the model's idle step: assumption log 2). -/
def Obligations.IdleBlockWaits : Prop := ∀ s : State, s.pending = [] → step s = .next s

/-- A write of a reserved opcode to CMD: CERR <- 1 and no other register or buffer changes (R102, R291). -/
def Obligations.ReservedOpcodeSetsIllegalCommand : Prop :=
  ∀ (s : State) (v : Nat) (rest : List HostEvent), s.pending = .write 0x000 v :: rest →
    v % 256 ∉ [0x00, 0x01, 0x02, 0x03, 0x08, 0x09, 0x10, 0x11, 0x12, 0x13, 0x14, 0x21, 0x22, 0x23, 0x24] →
    step s = .next { s with cstat := 1, pending := rest, reply := none, draws := s.draws + 1 }

/-- A HostRead of a scalar register returns its value, zero-extended, CMD reading 0, and changes nothing (R55, R56,
R81). -/
def Obligations.HostReadReturnsTheScalar : Prop :=
  ∀ (s : State) (rest : List HostEvent) (off : Nat) (v : U32), s.pending = .read off :: rest →
    (off, v) ∈ [(0x000, 0), (0x004, s.cstat.setWidth 32), (0x008, s.crcacc.setWidth 32), (0x00C, s.crcin.setWidth 32),
      (0x010, s.bfr.setWidth 32), (0x014, s.bfpos.setWidth 32), (0x018, s.bfv.setWidth 32), (0x01C, s.bfq.setWidth 32),
      (0x020, s.addr.setWidth 32), (0x024, s.fsel.setWidth 32), (0x028, s.start.setWidth 32),
      (0x02C, s.count.setWidth 32), (0x030, s.ilen.setWidth 32), (0x034, s.olen.setWidth 32), (0x038, s.rstat),
      (0x03C, s.rstart.setWidth 32), (0x040, s.rcount.setWidth 32), (0x044, s.nval.setWidth 32),
      (0x048, s.rlen.setWidth 32)] →
    step s = .next { s with pending := rest, reply := some v, draws := s.draws + 1 }

/-- A HostRead of an array element returns the value it holds, zero-extended, and changes nothing; an element that holds
none returns some value of its width, which one is free (R55, R56, R81; 93_implementation_defined.md U3, assumption
log 3). -/
def Obligations.HostReadReturnsTheElement : Prop :=
  ∀ (s : State) (rest : List HostEvent) (i : Nat),
    (∀ (base : Nat) (c : Cells 8), (base, c) ∈ [(0x400, s.ibuf), (0x600, s.obuf)] → i < 512 →
      s.pending = .read (base + i) :: rest →
      ∃ b : Byte, (∀ v, readCell c i = some v → b = v) ∧
        step s = .next { s with pending := rest, reply := some (b.setWidth 32), draws := s.draws + 1 }) ∧
    (∀ (base : Nat) (c : Cells 16), (base, c) ∈ [(0x100, s.wval), (0x200, s.rval)] → i < 127 →
      s.pending = .read (base + 2 * i) :: rest →
      ∃ b : U16, (∀ v, readCell c i = some v → b = v) ∧
        step s = .next { s with pending := rest, reply := some (b.setWidth 32), draws := s.draws + 1 }) ∧
    (∀ (base : Nat) (ser : Serial) (b : Byte), (base, ser) ∈ [(0x050, s.bser), (0x060, s.dser), (0x070, s.rbser),
        (0x080, s.rdser), (0x090, s.serout)] → i < 10 → (serialBytes ser)[i]? = some b →
      s.pending = .read (base + i) :: rest →
      step s = .next { s with pending := rest, reply := some (b.setWidth 32), draws := s.draws + 1 })

/-- A HostWrite to a read-write scalar keeps the low bits of the number; ILEN is clamped to BUF_SIZE instead
(R42, R56). -/
def Obligations.HostWriteStoresTheScalar : Prop :=
  ∀ (s t : State) (rest : List HostEvent) (v off : Nat), s.pending = .write off v :: rest →
    t = { s with pending := rest, reply := none, draws := s.draws + 1 } →
    (off = 0x008 → step s = .next { t with crcacc := BitVec.ofNat 16 v }) ∧
    (off = 0x00C → step s = .next { t with crcin := BitVec.ofNat 8 v }) ∧
    (off = 0x010 → step s = .next { t with bfr := BitVec.ofNat 16 v }) ∧
    (off = 0x014 → step s = .next { t with bfpos := BitVec.ofNat 16 v }) ∧
    (off = 0x018 → step s = .next { t with bfv := BitVec.ofNat 16 v }) ∧
    (off = 0x020 → step s = .next { t with addr := BitVec.ofNat 8 v }) ∧
    (off = 0x024 → step s = .next { t with fsel := BitVec.ofNat 1 v }) ∧
    (off = 0x028 → step s = .next { t with start := BitVec.ofNat 16 v }) ∧
    (off = 0x02C → step s = .next { t with count := BitVec.ofNat 16 v }) ∧
    (off = 0x030 → step s = .next { t with ilen := if v ≤ 512 then BitVec.ofNat 16 v else 512 })

/-- A HostWrite to an element of IBUF, WVAL, BSER or DSER: the element holds the low bits of the number, every other
element of that array and every other field is as before (R49, R50, R55, R56). -/
def Obligations.HostWriteStoresTheElement : Prop :=
  ∀ (s t : State) (rest : List HostEvent) (v i : Nat),
    t = { s with pending := rest, reply := none, draws := s.draws + 1 } →
    (s.pending = .write (0x400 + i) v :: rest → i < 512 →
      ∃ c, step s = .next { t with ibuf := c } ∧ readCell c i = some (BitVec.ofNat 8 v) ∧
        ∀ j, j ≠ i → readCell c j = readCell s.ibuf j) ∧
    (s.pending = .write (0x100 + 2 * i) v :: rest → i < 127 →
      ∃ c, step s = .next { t with wval := c } ∧ readCell c i = some (BitVec.ofNat 16 v) ∧
        ∀ j, j ≠ i → readCell c j = readCell s.wval j) ∧
    (s.pending = .write (0x050 + i) v :: rest → i < 10 →
      ∃ x, step s = .next { t with bser := x } ∧ serialBytes x = (serialBytes s.bser).set i (BitVec.ofNat 8 v)) ∧
    (s.pending = .write (0x060 + i) v :: rest → i < 10 →
      ∃ x, step s = .next { t with dser := x } ∧ serialBytes x = (serialBytes s.dser).set i (BitVec.ofNat 8 v))

/-- A HostWrite to a read-only register or element is ignored (R56). -/
def Obligations.HostWriteToReadOnlyIsIgnored : Prop :=
  ∀ (s : State) (rest : List HostEvent) (v off : Nat), s.pending = .write off v :: rest →
    (off ∈ [0x004, 0x01C, 0x034, 0x038, 0x03C, 0x040, 0x044, 0x048] ∨
      (0x070 ≤ off ∧ off ≤ 0x079) ∨ (0x080 ≤ off ∧ off ≤ 0x089) ∨ (0x090 ≤ off ∧ off ≤ 0x099) ∨
      (0x200 ≤ off ∧ off ≤ 0x2FC ∧ off % 2 = 0) ∨ (0x600 ≤ off ∧ off ≤ 0x7FF)) →
    step s = .next { s with pending := rest, reply := none, draws := s.draws + 1 }

/-- The offsets with behaviour are exactly those of the register map; any other offset of the block is refused, read or
written (R55, R79). -/
def Obligations.UnmappedOffsetIsRefused : Prop :=
  ∀ (s : State) (rest : List HostEvent) (e : HostEvent) (off : Nat), s.pending = e :: rest →
    (e = .read off ∨ ∃ v, e = .write off v) → off ≤ 0x7FF →
    (step s = .refused (.unmappedOffset off) ↔
      ¬ ((off ≤ 0x048 ∧ off % 4 = 0) ∨ (0x050 ≤ off ∧ off ≤ 0x059) ∨ (0x060 ≤ off ∧ off ≤ 0x069) ∨
        (0x070 ≤ off ∧ off ≤ 0x079) ∨ (0x080 ≤ off ∧ off ≤ 0x089) ∨ (0x090 ≤ off ∧ off ≤ 0x099) ∨
        (0x100 ≤ off ∧ off ≤ 0x1FC ∧ off % 2 = 0) ∨ (0x200 ≤ off ∧ off ≤ 0x2FC ∧ off % 2 = 0) ∨ 0x400 ≤ off))

/-- The reset input leaves every register at the value of the reset table and every array element without a value, whatever
went before, and does not change the strap (R54, R340). Nothing is said of the model's own three fields. -/
def Obligations.ResetRestoresTheResetValues : Prop :=
  ∀ (s : State) (rest : List HostEvent), s.pending = .reset :: rest →
    ∃ t, step s = .next t ∧ t = { t with
      serialMode := s.serialMode
      cstat := 0, crcacc := 0xFFFF, crcin := 0, bfr := 0, bfpos := 0, bfv := 0, bfq := 0, addr := 1, fsel := 0, start := 0
      count := 0, ilen := 0, olen := 0, rstat := 0x00000017, rstart := 0, rcount := 0, nval := 0, rlen := 0
      bser := ⟨0x30, 0x30, 0x30, 0x30, 0x30, 0x30, 0x30, 0x30, 0x30, 0x30⟩
      dser := ⟨0x30, 0x30, 0x30, 0x30, 0x30, 0x30, 0x30, 0x30, 0x30, 0x30⟩
      rbser := ⟨0, 0, 0, 0, 0, 0, 0, 0, 0, 0⟩
      rdser := ⟨0, 0, 0, 0, 0, 0, 0, 0, 0, 0⟩
      serout := ⟨0, 0, 0, 0, 0, 0, 0, 0, 0, 0⟩
      wval := []
      rval := []
      ibuf := []
      obuf := [] }

/-- Every command is defined in the reset state: STD.DEC straight after reset rewrites the decode results with their reset
values, and STD.RD straight after reset builds `01 03 00 00 00 00 45 CA` (R341). -/
def Obligations.CommandsWorkStraightAfterReset : Prop :=
  (∀ i : Instr, i.space = .cmd → ∃ t, exec i State.reset = .next t) ∧
  exec .stdDec State.reset = .next State.reset ∧
  exec .stdRd State.reset = .next { State.reset with
    obuf := cellsOf [0x01, 0x03, 0x00, 0x00, 0x00, 0x00, 0x45, 0xCA], olen := 8 }

/-! ### The CRC engine (40_crc.md) and NOP (45_system.md) -/

/-- NOP writes CERR <- 0 and nothing else (R290). -/
def Obligations.NopClearsCerrOnly : Prop := ∀ s : State, exec .nop s = .next { s with cstat := 0 }

/-- CRC.INIT writes 0xFFFF to CRCACC, CRC.BYTE folds CRCIN into CRCACC, CRC.BUF puts the CRC of IBUF[0:ILEN] there;
each writes CERR <- 0 and nothing else (R143, R144, R145). -/
def Obligations.CrcCommandsWriteTheAccumulator : Prop :=
  ∀ s : State, exec .crcInit s = .next { s with crcacc := 0xFFFF, cstat := 0 } ∧
    exec .crcByte s = .next { s with crcacc := crcStep s.crcacc s.crcin, cstat := 0 } ∧
    exec .crcBuf s = .next { s with crcacc := crc16 s.input, cstat := 0 }

/-- The input sequence has ILEN bytes, and byte `i` is what IBUF[i] holds (R42, R50). -/
def Obligations.InputIsTheBufferPrefix : Prop :=
  ∀ s : State, s.input.length = s.ilen.toNat ∧
    ∀ (i : Nat) (b : Byte), i < s.ilen.toNat → readCell s.ibuf i = some b → s.input[i]? = some b

/-- One byte of the CRC is a table lookup on the low byte of the register XORed with the data byte, XORed with the high
byte of the register (R142 (d): a 256-entry table returns the same u16 as the bit-serial circuit). -/
def Obligations.CrcStepIsATableLookup : Prop :=
  ∀ (c : U16) (b : Byte), crcStep c b = (c >>> 8) ^^^ crcStep 0 (lowByte c ^^^ b)

/-- CRC.INIT followed by one CRC.BYTE per byte of IBUF[0:ILEN] leaves in CRCACC what CRC.BUF leaves there (R142 (b)). -/
def Obligations.StreamedCrcEqualsCrcBuf : Prop :=
  ∀ s : State, ∃ t u w, exec .crcInit s = .next t ∧ streamCrc s.input t = .next u ∧ exec .crcBuf s = .next w ∧
    u.crcacc = w.crcacc

/-- The residue law: the CRC of a byte sequence followed by its own trailer is 0 (R142 (c)). -/
def Obligations.CrcOfAFrameIsZero : Prop :=
  ∀ f : List Byte, crc16 (f ++ [lowByte (crc16 f), highByte (crc16 f)]) = 0

/-- Two byte sequences that differ in exactly one bit have different CRCs (R147). -/
def Obligations.CrcDetectsEverySingleBitError : Prop :=
  ∀ (before after : List Byte) (b : Byte) (k : Nat), k < 8 →
    crc16 (before ++ [b ^^^ BitVec.twoPow 8 k] ++ after) ≠ crc16 (before ++ [b] ++ after)

/-! ### The bit-field unit (41_bitfield.md) -/

/-- BF.GET: in range BFQ is the WIDTH bits of BFR from OFFSET up, as a number, and CERR 0; otherwise CERR is 2; nothing else
changes (R160, R164). -/
def Obligations.BfGetReturnsTheField : Prop :=
  ∀ (s : State) (o w : Nat), o = s.bfpos.toNat % 256 → w = s.bfpos.toNat / 256 →
    exec .bfGet s = .next (if o + w ≤ 16 then { s with bfq := BitVec.ofNat 16 (s.bfr.toNat / 2 ^ o % 2 ^ w), cstat := 0 }
      else { s with cstat := 2 })

/-- BF.SET: in range, in BFQ the window holds the low bits of BFV and every other bit is that of BFR, and CERR is 0;
otherwise CERR is 2; nothing else changes (R161, R165). -/
def Obligations.BfSetReplacesTheWindow : Prop :=
  ∀ (s : State) (o w : Nat), o = s.bfpos.toNat % 256 → w = s.bfpos.toNat / 256 →
    (o + w ≤ 16 → ∃ q : U16, exec .bfSet s = .next { s with bfq := q, cstat := 0 } ∧
      ∀ k, k < 16 → q.getLsbD k = if o ≤ k ∧ k < o + w then s.bfv.getLsbD (k - o) else s.bfr.getLsbD k) ∧
    (16 < o + w → exec .bfSet s = .next { s with cstat := 2 })

/-- BF.GET and BF.SET with OFFSET + WIDTH > 16, the sum taken without wrap: CERR <- 2, BFQ and everything else unchanged;
with a sum of at most 16, width 0 included, neither is rejected (R163). -/
def Obligations.BitFieldOutOfRangeIsRejected : Prop :=
  ∀ (s : State) (c : Instr), c = .bfGet ∨ c = .bfSet →
    (16 < s.bfpos.toNat % 256 + s.bfpos.toNat / 256 → exec c s = .next { s with cstat := 2 }) ∧
    (s.bfpos.toNat % 256 + s.bfpos.toNat / 256 ≤ 16 → ∃ q, exec c s = .next { s with bfq := q, cstat := 0 })

/-- The laws of the bit-field functions, for every register, value and field in range: (a) a field read back after it was
set is the value cut to the field, (b) every other bit is preserved, (c) setting a field to what it holds changes nothing,
(d) the whole register as a field, (e) a field of width 0 (R162). -/
def Obligations.BitFieldLaws : Prop :=
  ∀ (r v : U16) (o w : Nat), o + w ≤ 16 →
    (∃ q g, setBits r o w v = some q ∧ getBits q o w = some g ∧ g.toNat = v.toNat % 2 ^ w ∧
      ∀ p, p < 16 → p < o ∨ o + w ≤ p → q.getLsbD p = r.getLsbD p) ∧
    (∃ g, getBits r o w = some g ∧ setBits r o w g = some r) ∧
    getBits r 0 16 = some r ∧ setBits r 0 16 v = some v ∧
    getBits r o 0 = some 0 ∧ setBits r o 0 v = some r

/-! ### The Standard codec, requests (42_std_codec.md) -/

/-- STD.ADDR writes to ADDR byte 0 of IBUF[0:ILEN], with 1 in place of a zero byte or an empty identifier, and CERR <- 0;
nothing else changes (R180, R181). -/
def Obligations.StdAddrResolvesTheAddress : Prop :=
  ∀ s : State, exec .stdAddr s = .next { s with
    addr := if s.input = [] ∨ s.input[0]? = some 0 then 1 else byteAt s.input 0, cstat := 0 }

/-- STD.RD and STD.WR1: the eight bytes of the frame, in OBUF, with OLEN 8 and CERR 0; the two last bytes are the CRC of
the six before, low byte first; nothing else changes (R182 to R185). -/
def Obligations.StdShortRequestBytes : Prop :=
  ∀ (s : State) (fn : Byte) (c : Instr), (c = .stdRd ∧ fn = (if s.fsel = 1 then 4 else 3)) ∨ (c = .stdWr1 ∧ fn = 6) →
    ∃ crc : U16, crc = crc16 [s.addr, fn, highByte s.start, lowByte s.start, highByte s.count, lowByte s.count] ∧
      exec c s = .next { s with
        obuf := cellsOf [s.addr, fn, highByte s.start, lowByte s.start, highByte s.count, lowByte s.count,
          lowByte crc, highByte crc]
        olen := 8
        cstat := 0 }

/-- STD.WRN with COUNT at most 127: the frame is 9 + 2 COUNT bytes, the header, START, COUNT and byteCount, then the
values high byte first, then the CRC of all bytes before it; value `i` is what WVAL[i] holds. With COUNT above 127 OLEN is
0, no element of OBUF holds a value, and CERR is 2. Nothing else changes (R186, R187). -/
def Obligations.StdWriteManyRequestBytes : Prop :=
  ∀ (s : State) (n : Nat), n = s.count.toNat →
    (n ≤ 127 → ∃ (f : List Byte) (vs : List U16), exec .stdWrn s = .next { s with
        obuf := cellsOf f, olen := BitVec.ofNat 16 (9 + 2 * n), cstat := 0 } ∧
      f.length = 9 + 2 * n ∧ vs.length = n ∧ (∀ i v, i < n → readCell s.wval i = some v → vs[i]? = some v) ∧
      f.take 7 = [s.addr, 0x10, highByte s.start, lowByte s.start, highByte s.count, lowByte s.count,
        BitVec.ofNat 8 (2 * n)] ∧
      (∀ i, i < n → be16 f (7 + 2 * i) = vs.getD i 0) ∧
      le16 f (7 + 2 * n) = crc16 (f.take (7 + 2 * n))) ∧
    (127 < n → exec .stdWrn s = .next { s with obuf := [], olen := 0, cstat := 2 })


/-! ### The Proprietary codec, requests (43_lxp_codec.md) -/

/-- LXP.RD and LXP.WR1: the header with the serials the strap selects, START and COUNT low byte first, then the CRC; OLEN
is H + 6, CERR 0, nothing else changes (R107, R220, R222, R223, R225, R226). -/
def Obligations.LxpShortRequestBytes : Prop :=
  ∀ (s : State) (fn : Byte) (c : Instr) (ser : List Byte) (h : Nat),
    (c = .lxpRd ∧ fn = (if s.fsel = 1 then 4 else 3)) ∨ (c = .lxpWr1 ∧ fn = 6) →
    (s.serialMode = .both ∧ ser = serialBytes s.bser ++ serialBytes s.dser ∧ h = 22) ∨
      (s.serialMode = .deviceOnly ∧ ser = serialBytes s.dser ∧ h = 12) ∨
      (s.serialMode = .bridgeOnly ∧ ser = serialBytes s.bser ∧ h = 12) →
    ∃ (body : List Byte) (crc : U16),
      body = [s.addr, fn] ++ ser ++ [lowByte s.start, highByte s.start, lowByte s.count, highByte s.count] ∧
      crc = crc16 body ∧ body.length = h + 4 ∧
      exec c s = .next { s with
        obuf := cellsOf (body ++ [lowByte crc, highByte crc]), olen := BitVec.ofNat 16 (h + 6), cstat := 0 }

/-- LXP.WRN with COUNT at most 127: H + 7 + 2 COUNT bytes, the header with the serials the strap selects, START, COUNT,
byteCount and the values, all u16 low byte first, then the CRC. With COUNT above 127 OLEN is 0, no element of OBUF holds a
value, and CERR is 2. Nothing else changes (R224, R227). -/
def Obligations.LxpWriteManyRequestBytes : Prop :=
  ∀ (s : State) (n h : Nat), n = s.count.toNat →
    h = (match s.serialMode with | .both => 22 | .deviceOnly => 12 | .bridgeOnly => 12) →
    (n ≤ 127 → ∃ (f : List Byte) (vs : List U16), exec .lxpWrn s = .next { s with
        obuf := cellsOf f, olen := BitVec.ofNat 16 (h + 7 + 2 * n), cstat := 0 } ∧
      f.length = h + 7 + 2 * n ∧ vs.length = n ∧ (∀ i v, i < n → readCell s.wval i = some v → vs[i]? = some v) ∧
      f.take (h + 5) = [s.addr, 0x10] ++
        (match s.serialMode with
          | .both => serialBytes s.bser ++ serialBytes s.dser
          | .deviceOnly => serialBytes s.dser
          | .bridgeOnly => serialBytes s.bser) ++
        [lowByte s.start, highByte s.start, lowByte s.count, highByte s.count, BitVec.ofNat 8 (2 * n)] ∧
      (∀ i, i < n → le16 f (h + 5 + 2 * i) = vs.getD i 0) ∧
      le16 f (h + 5 + 2 * n) = crc16 (f.take (h + 5 + 2 * n))) ∧
    (127 < n → exec .lxpWrn s = .next { s with obuf := [], olen := 0, cstat := 2 })

/-! ### The decoders and the classifier (42_std_codec.md, 43_lxp_codec.md, 44_classifier.md) -/

/-- The decision table of both decoders, row by row: length, checksum, exception flag, function code and the per-function
length decide DIAG, and with it KIND and NEED_MORE, the code of an exception, the number of values of a read and the two
fields of an echo. The command answers a next state on every buffer with CERR 0, and changes the decode results and CERR
only (R270). -/
def Obligations.DecodeCommandsFollowTheDecisionTable : Prop :=
  ∀ (s : State) (c : Instr) (fr : Framing), (c = .stdDec ∧ fr = .std) ∨ (c = .lxpDec ∧ fr = .lxp s.serialMode) →
    ∃ (t : State) (d : Diag), exec c s = .next t ∧
      t = { s with
        rstat := t.rstat, rstart := t.rstart, rcount := t.rcount, nval := t.nval, rlen := t.rlen
        rval := t.rval, rbser := t.rbser, rdser := t.rdser, serout := t.serout, cstat := 0 } ∧
      rstatDiag t.rstat = diagCode d ∧ rstatKind t.rstat = kindCode (diagKind d) ∧
      (rstatNeedMore t.rstat = true ↔ d = .tooShort ∨ d = .lengthExceedsBuffer ∨ d = .echoTooShort) ∧
      (let L := s.input.length
       let hd := headerLength fr
       let crcGood := crc16 (s.input.take (L - 2)) = le16 s.input (L - 2)
       let flag := (byteAt s.input 1).getLsbD 7
       let f := (byteAt s.input 1).toNat % 128
       let n := (byteAt s.input hd).toNat
       (L < hd + 3 → d = .tooShort) ∧
       (hd + 3 ≤ L → ¬ crcGood → d = .crcMismatch) ∧
       (hd + 3 ≤ L → crcGood → flag = true → d = .exceptionResponse ∧ (rstatExc t.rstat).toNat = n) ∧
       (hd + 3 ≤ L → crcGood → flag = false → (f = 3 ∨ f = 4) → L < hd + 1 + n + 2 → d = .lengthExceedsBuffer) ∧
       (hd + 3 ≤ L → crcGood → flag = false → (f = 3 ∨ f = 4) → hd + 1 + n + 2 ≤ L →
         d = .none ∧ t.nval.toNat = n / 2) ∧
       (hd + 3 ≤ L → crcGood → flag = false → (f = 6 ∨ f = 16) → L < hd + 6 → d = .echoTooShort) ∧
       (hd + 3 ≤ L → crcGood → flag = false → (f = 6 ∨ f = 16) → hd + 6 ≤ L →
         d = .none ∧ t.rstart = get16 fr s.input hd ∧ t.rcount = get16 fr s.input (hd + 2)) ∧
       (hd + 3 ≤ L → crcGood → flag = false → f ≠ 3 → f ≠ 4 → f ≠ 6 → f ≠ 16 → d = .unsupportedFunction))

/-- The header fields: from a buffer of at least the minimum length RADDR, RFUNC and EXCF are its bytes 0 and 1, whatever
the kind; from a shorter one RSTAT is 0x00000017 (R45, R190, R191, R228, R229). -/
def Obligations.DecodeCommandsReportTheHeader : Prop :=
  ∀ (s t : State) (c : Instr) (fr : Framing), (c = .stdDec ∧ fr = .std) ∨ (c = .lxpDec ∧ fr = .lxp s.serialMode) →
    exec c s = .next t →
    (s.input.length < headerLength fr + 3 → t.rstat = 0x00000017) ∧
    (headerLength fr + 3 ≤ s.input.length → rstatAddr t.rstat = byteAt s.input 0 ∧
      (rstatFunc t.rstat).toNat = (byteAt s.input 1).toNat % 128 ∧
      rstatExcf t.rstat = (byteAt s.input 1).getLsbD 7)

/-- The header serials: STD.DEC clears RBSER and RDSER; LXP.DEC reports the raw fields of the header where the strap has
them and the buffer has its minimum length, and ten zero bytes otherwise (R48, R198, R229). -/
def Obligations.DecodeCommandsReportTheSerials : Prop :=
  ∀ s t : State,
    (exec .stdDec s = .next t → t.rbser = zeroSerial ∧ t.rdser = zeroSerial ∧ t.serout = zeroSerial ∧
      rstatSerValid t.rstat = false) ∧
    (exec .lxpDec s = .next t →
      let long := headerLength (.lxp s.serialMode) + 3 ≤ s.input.length
      (¬ long → t.rbser = zeroSerial ∧ t.rdser = zeroSerial) ∧
      (long → s.serialMode = .both →
        serialBytes t.rbser = slice s.input 2 12 ∧ serialBytes t.rdser = slice s.input 12 22) ∧
      (long → s.serialMode = .deviceOnly → t.rbser = zeroSerial ∧ serialBytes t.rdser = slice s.input 2 12) ∧
      (long → s.serialMode = .bridgeOnly → serialBytes t.rbser = slice s.input 2 12 ∧ t.rdser = zeroSerial))

/-- A Success read response: RLEN is the declared length, NVAL half of it rounded down, RVAL[i] the u16 at byte
Hd + 1 + 2 i in the framing's byte order, and no element at NVAL or above holds a value (R194, R233, R49). -/
def Obligations.ReadResponseValues : Prop :=
  ∀ (s t : State) (c : Instr) (fr : Framing) (n : Nat),
    (c = .stdDec ∧ fr = .std) ∨ (c = .lxpDec ∧ fr = .lxp s.serialMode) → exec c s = .next t →
    rstatKind t.rstat = kindCode .success → (rstatFunc t.rstat = 3 ∨ rstatFunc t.rstat = 4) →
    n = (byteAt s.input (headerLength fr)).toNat →
    t.rlen.toNat = n ∧ t.nval.toNat = n / 2 ∧ t.rstart = 0 ∧ t.rcount = 0 ∧
      (∀ i, i < n / 2 → readCell t.rval i = some (get16 fr s.input (headerLength fr + 1 + 2 * i))) ∧
      ∀ i, n / 2 ≤ i → readCell t.rval i = none

/-- A Success read response to LXP.DEC: a ten-byte data segment is reported in SEROUT with every byte outside 32..126
replaced by 0x3F, and SER_VALID is 1; any other length leaves SEROUT zero and SER_VALID 0 (R232, R233). -/
def Obligations.SerialReportIsSanitized : Prop :=
  ∀ (s t : State) (h : Nat), exec .lxpDec s = .next t → h = headerLength (.lxp s.serialMode) →
    rstatKind t.rstat = kindCode .success → (rstatFunc t.rstat = 3 ∨ rstatFunc t.rstat = 4) →
    (byteAt s.input h = 10 → rstatSerValid t.rstat = true ∧
      ∀ i, i < 10 → (serialBytes t.serout)[i]? = some (let b := byteAt s.input (h + 1 + i)
        if 32 ≤ b.toNat ∧ b.toNat ≤ 126 then b else 0x3F)) ∧
    (byteAt s.input h ≠ 10 → rstatSerValid t.rstat = false ∧ t.serout = zeroSerial)

/-- A Success write echo: RSTART and RCOUNT are the two u16 fields after the header, in the framing's byte order, and no
value is decoded (R195, R196, R234, R235). -/
def Obligations.WriteEchoFields : Prop :=
  ∀ (s t : State) (c : Instr) (fr : Framing),
    (c = .stdDec ∧ fr = .std) ∨ (c = .lxpDec ∧ fr = .lxp s.serialMode) → exec c s = .next t →
    rstatKind t.rstat = kindCode .success → (rstatFunc t.rstat = 6 ∨ rstatFunc t.rstat = 16) →
    t.rstart = get16 fr s.input (headerLength fr) ∧ t.rcount = get16 fr s.input (headerLength fr + 2) ∧
      t.nval = 0 ∧ t.rlen = 0 ∧ t.rval = []

/-- A buffer of at least the minimum length with a good checksum and the exception flag set is an Exception response with
EXCF 1 and REXC the byte after the header, whatever that byte and whatever the function code under the flag; and nothing
else is an Exception response (R192, R230, R269, R302). -/
def Obligations.ExceptionCodeIsPassedThrough : Prop :=
  ∀ (s t : State) (c : Instr) (fr : Framing),
    (c = .stdDec ∧ fr = .std) ∨ (c = .lxpDec ∧ fr = .lxp s.serialMode) → exec c s = .next t →
    (headerLength fr + 3 ≤ s.input.length →
      crc16 (s.input.take (s.input.length - 2)) = le16 s.input (s.input.length - 2) →
      (byteAt s.input 1).getLsbD 7 = true →
      rstatKind t.rstat = kindCode .exception ∧ rstatExcf t.rstat = true ∧
        rstatExc t.rstat = byteAt s.input (headerLength fr)) ∧
    (rstatKind t.rstat = kindCode .exception →
      headerLength fr + 3 ≤ s.input.length ∧
      crc16 (s.input.take (s.input.length - 2)) = le16 s.input (s.input.length - 2) ∧
      (byteAt s.input 1).getLsbD 7 = true)

/-- No partial payload: after a decode whose KIND is not Success, NVAL, RSTART, RCOUNT and SER_VALID are 0, SEROUT is
zeros, no element of RVAL holds a value, and REXC is nonzero only for Exception (R266). -/
def Obligations.NoPartialPayload : Prop :=
  ∀ (s t : State) (c : Instr), c = .stdDec ∨ c = .lxpDec → exec c s = .next t →
    (rstatKind t.rstat ≠ kindCode .success → t.nval = 0 ∧ t.rstart = 0 ∧ t.rcount = 0 ∧
      rstatSerValid t.rstat = false ∧ t.serout = zeroSerial ∧ t.rval = []) ∧
    (rstatKind t.rstat ≠ kindCode .exception → rstatExc t.rstat = 0)

/-- The abstract decoded response after a decode: the kind, the exception code exactly for Exception, and the values: a
read's keyed by offset from the start register, a write-single's register and value, nothing otherwise (R36, R37,
R57). -/
def Obligations.DecodedResponseOfADecode : Prop :=
  ∀ (s t : State) (c : Instr) (fr : Framing),
    (c = .stdDec ∧ fr = .std) ∨ (c = .lxpDec ∧ fr = .lxp s.serialMode) → exec c s = .next t →
    kindCode t.decodedResponse.kind = rstatKind t.rstat ∧
    (t.decodedResponse.kind = .exception →
      t.decodedResponse.exceptionCode = some (byteAt s.input (headerLength fr)) ∧ t.decodedResponse.values = []) ∧
    (t.decodedResponse.kind ≠ .exception → t.decodedResponse.exceptionCode = none) ∧
    (t.decodedResponse.kind = .checksumMismatch ∨ t.decodedResponse.kind = .malformed →
      t.decodedResponse.values = []) ∧
    (t.decodedResponse.kind = .success → (rstatFunc t.rstat = 3 ∨ rstatFunc t.rstat = 4) →
      t.decodedResponse.values = (List.range ((byteAt s.input (headerLength fr)).toNat / 2)).map
        (fun i => (i, get16 fr s.input (headerLength fr + 1 + 2 * i)))) ∧
    (t.decodedResponse.kind = .success → rstatFunc t.rstat = 6 →
      t.decodedResponse.values =
        [((get16 fr s.input (headerLength fr)).toNat, get16 fr s.input (headerLength fr + 2))]) ∧
    (t.decodedResponse.kind = .success → rstatFunc t.rstat = 16 → t.decodedResponse.values = [])

/-- An encoded write decodes, in its own framing, to Success with the register and value, or the start and the number of
values, it was built from (R199 (b), R238 (c)). -/
def Obligations.EncodedWritesRoundTrip : Prop :=
  ∀ (a : Byte) (r v : U16) (vs : List U16) (m : SerialMode) (b d : Serial), vs.length ≤ 127 →
    (∀ x, x = stdDecode (stdEncWrite1 a r v) → x.diag = .none ∧ x.rstart = r ∧ x.rcount = v) ∧
    (∀ x, x = stdDecode (stdEncWriten a r vs) → x.diag = .none ∧ x.rstart = r ∧ x.rcount.toNat = vs.length) ∧
    (∀ x, x = lxpDecode m (lxpEncWrite1 a (selectSerials m b d) r v) → x.diag = .none ∧ x.rstart = r ∧ x.rcount = v ∧
      x.rbser = (selectSerials m b d).reportedBridge ∧ x.rdser = (selectSerials m b d).reportedDevice) ∧
    (∀ x, x = lxpDecode m (lxpEncWriten a (selectSerials m b d) r vs) →
      x.diag = .none ∧ x.rstart = r ∧ x.rcount.toNat = vs.length)

/-- A read request given to its own framing's decoder is parsed as a read response whose length byte is the high byte of
start (Standard) or its low byte (Proprietary): Success up to 3, LengthExceedsBuffer from 4 on (R199 (c), R238 (d)). -/
def Obligations.ReadRequestParsedAsResponse : Prop :=
  ∀ (a : Byte) (fsel : BitVec 1) (start count : U16) (m : SerialMode) (b d : Serial),
    (stdDecode (stdEncRead a fsel start count)).diag =
      (if start.toNat / 256 ≤ 3 then .none else .lengthExceedsBuffer) ∧
    (stdDecode (stdEncRead a fsel start count)).rlen = highByte start ∧
    (lxpDecode m (lxpEncRead a fsel (selectSerials m b d) start count)).diag =
      (if start.toNat % 256 ≤ 3 then .none else .lengthExceedsBuffer) ∧
    (lxpDecode m (lxpEncRead a fsel (selectSerials m b d) start count)).rlen = lowByte start

/-- Flipping any one bit of a buffer that passes the checksum test and has its decoder's minimum length, in the payload or
in the trailer, gives ChecksumMismatch (R199 (a), R238 (b), R364). -/
def Obligations.EverySingleBitFlipIsAChecksumMismatch : Prop :=
  ∀ (fr : Framing) (before after : List Byte) (b : Byte) (k : Nat), k < 8 →
    headerLength fr + 3 ≤ (before ++ [b] ++ after).length → crcOk (before ++ [b] ++ after) = true →
    (decodeResponse fr (before ++ [b ^^^ BitVec.twoPow 8 k] ++ after)).diag = .crcMismatch

/-- The round trip of every valid operation through a device: the response of the reference responder to the encoded
operation decodes to Success, with the device's values for a read (valid: 1 to 127 registers, all of which the device has),
the register and value for a write-single, the start and number of values for a write-multiple (valid: at most 127 values)
(95_test_vectors.md section 6, 90_conflicts.md C3). -/
def Obligations.RoundTripThroughTheReferenceResponder : Prop :=
  ∀ (m : SerialMode) (ser : HeaderSerials) (a : Byte) (regs : List (Nat × U16)) (op : LogicalOp), ser.fits m = true →
    (∀ values f start count, op = .readRegisters f start count → 1 ≤ count.toNat → count.toNat ≤ 127 →
      deviceBlock regs start.toNat count.toNat = some values →
      ∀ x, x = stdDecode (respond .std (stdEncodeOp a op) regs) ∨
        x = lxpDecode m (respond (.lxp m) (lxpEncodeOp a ser op) regs) → x.diag = .none ∧ x.values = values) ∧
    (∀ register value, op = .writeRegister register value →
      ∀ x, x = stdDecode (respond .std (stdEncodeOp a op) regs) ∨
        x = lxpDecode m (respond (.lxp m) (lxpEncodeOp a ser op) regs) →
        x.diag = .none ∧ x.rstart = register ∧ x.rcount = value) ∧
    (∀ start values, op = .writeRegisters start values → values.length ≤ 127 →
      ∀ x, x = stdDecode (respond .std (stdEncodeOp a op) regs) ∨
        x = lxpDecode m (respond (.lxp m) (lxpEncodeOp a ser op) regs) →
        x.diag = .none ∧ x.rstart = start ∧ x.rcount.toNat = values.length)

/-! ### The wire rows (30_encoding.md R105 to R109) -/

/-- A well-formed request row builds exactly its encoding in OBUF, with OLEN its length and CERR 0; nothing else changes
(R182, R184, R186, R222, R223, R224). -/
def Obligations.RequestRowsBuildTheirEncoding : Prop :=
  ∀ (s : State) (i : Instr), i.space = .stdReq ∨ i.space = .lxpReq → i.wf s.serialMode = true →
    exec i s = .next { s with
      obuf := cellsOf (encode i), olen := BitVec.ofNat 16 (encode i).length, cstat := 0 }

/-- A well-formed response row reports exactly what its framing's decoder finds in its encoding; nothing but the decode
results and CERR changes (R189, R228). -/
def Obligations.ResponseRowsReportTheirDecoding : Prop :=
  ∀ (s : State) (i : Instr) (fr : Framing), i.wf s.serialMode = true →
    (i.space = .stdRsp ∧ fr = .std) ∨ (i.space = .lxpRsp ∧ fr = .lxp s.serialMode) →
    exec i s = report (decodeResponse fr (encode i)) s

/-- A decode command on a buffer that is a response row does what the row's meaning says (R198, R237; the row's meaning is
the model's choice, assumption log 5). -/
def Obligations.DecodeCommandsRunTheRowInTheBuffer : Prop :=
  ∀ (s : State) (i : Instr),
    (decode s.serialMode .stdRsp s.input = .ok i → exec .stdDec s = exec i s) ∧
    (decode s.serialMode .lxpRsp s.input = .ok i → exec .lxpDec s = exec i s)

/-- A wire row term that no byte sequence encodes under the strap (more than 127 values, a data segment above 255 bytes, a
response longer than the buffer, serial fields the strap does not select) is refused by name (the model's choice:
assumption log 5). -/
def Obligations.IllFormedRowsAreRefused : Prop :=
  ∀ (s : State) (i : Instr), i.wf s.serialMode = false → exec i s = .refused .notEncodable

/-- What each Standard response row leaves: the status word, the fields it carries and the values of its data segment,
high byte first; the serial results are cleared, CERR is 0, nothing else changes (R106, R192, R194, R195, R196). -/
def Obligations.StdResponseRowResults : Prop :=
  ∀ (s : State) (a : Byte) (func : BitVec 7) (code : Byte) (x y : U16) (data extra : List Byte),
    ((Instr.stdRspExc a func code extra).wf s.serialMode = true →
      exec (.stdRspExc a func code extra) s = .next { s with
        rstat := a ++ code ++ 1#1 ++ func ++ 0x61#8, rstart := 0, rcount := 0, nval := 0, rlen := 0, rval := []
        rbser := zeroSerial, rdser := zeroSerial, serout := zeroSerial, cstat := 0 }) ∧
    (∀ (c : Instr) (f : BitVec 7), (c = .stdRspRd3 a data extra ∧ f = 3) ∨ (c = .stdRspRd4 a data extra ∧ f = 4) →
      c.wf s.serialMode = true →
      exec c s = .next { s with
        rstat := a ++ 0#8 ++ 0#1 ++ f ++ 0x00#8, rstart := 0, rcount := 0, nval := BitVec.ofNat 8 (data.length / 2)
        rlen := BitVec.ofNat 8 data.length
        rval := cellsOf ((List.range (data.length / 2)).map (fun i => be16 data (2 * i)))
        rbser := zeroSerial, rdser := zeroSerial, serout := zeroSerial, cstat := 0 }) ∧
    (∀ (c : Instr) (f : BitVec 7), (c = .stdRspWr1 a x y extra ∧ f = 6) ∨ (c = .stdRspWrn a x y extra ∧ f = 16) →
      c.wf s.serialMode = true →
      exec c s = .next { s with
        rstat := a ++ 0#8 ++ 0#1 ++ f ++ 0x00#8, rstart := x, rcount := y, nval := 0, rlen := 0, rval := []
        rbser := zeroSerial, rdser := zeroSerial, serout := zeroSerial, cstat := 0 })

/-- What each Proprietary response row leaves, as for the Standard rows, with the header serials reported, the values low
byte first, and a ten-byte data segment reported as a sanitized serial (R109, R230, R233, R234, R235). -/
def Obligations.LxpResponseRowResults : Prop :=
  ∀ (s : State) (a : Byte) (ser : HeaderSerials) (func : BitVec 7) (code : Byte) (x y : U16) (data extra : List Byte),
    ((Instr.lxpRspExc a func ser code extra).wf s.serialMode = true →
      exec (.lxpRspExc a func ser code extra) s = .next { s with
        rstat := a ++ code ++ 1#1 ++ func ++ 0x61#8, rstart := 0, rcount := 0, nval := 0, rlen := 0, rval := []
        rbser := ser.reportedBridge, rdser := ser.reportedDevice, serout := zeroSerial, cstat := 0 }) ∧
    (∀ (c : Instr) (f : BitVec 7),
      (c = .lxpRspRd3 a ser data extra ∧ f = 3) ∨ (c = .lxpRspRd4 a ser data extra ∧ f = 4) →
      c.wf s.serialMode = true →
      exec c s = .next { s with
        rstat := a ++ 0#8 ++ 0#1 ++ f ++ (if data.length = 10 then 0x08#8 else 0x00#8), rstart := 0, rcount := 0
        nval := BitVec.ofNat 8 (data.length / 2)
        rlen := BitVec.ofNat 8 data.length
        rval := cellsOf ((List.range (data.length / 2)).map (fun i => le16 data (2 * i)))
        rbser := ser.reportedBridge, rdser := ser.reportedDevice
        serout := if data.length = 10 then serialOf (data.map sanitize) else zeroSerial
        cstat := 0 }) ∧
    (∀ (c : Instr) (f : BitVec 7),
      (c = .lxpRspWr1 a ser x y extra ∧ f = 6) ∨ (c = .lxpRspWrn a ser x y extra ∧ f = 16) →
      c.wf s.serialMode = true →
      exec c s = .next { s with
        rstat := a ++ 0#8 ++ 0#1 ++ f ++ 0x00#8, rstart := x, rcount := y, nval := 0, rlen := 0, rval := []
        rbser := ser.reportedBridge, rdser := ser.reportedDevice, serout := zeroSerial, cstat := 0 })

/-! ### The machine as a whole (10_state.md R33, R38, R53, 60_exceptions.md R306, R307) -/

/-- Every command ends, on every state, with a next state: no command faults, hangs or is refused (R261, R307). -/
def Obligations.CommandsNeverStop : Prop :=
  ∀ (i : Instr) (s : State), i.space = .cmd → ∃ t, exec i s = .next t

/-- CERR after a command: 2 exactly for a bit-field command with OFFSET + WIDTH > 16 and a write-multiple command with
COUNT > 127, else 0; bits 7:4 of CSTAT are 0 (R44, R306). -/
def Obligations.CerrDescribesTheCommand : Prop :=
  ∀ (i : Instr) (s t : State), i.space = .cmd → exec i s = .next t →
    (((i = .bfGet ∨ i = .bfSet) ∧ 16 < s.bfpos.toNat % 256 + s.bfpos.toNat / 256 ∨
        (i = .stdWrn ∨ i = .lxpWrn) ∧ 127 < s.count.toNat) → t.cstat = 2) ∧
    (¬ ((i = .bfGet ∨ i = .bfSet) ∧ 16 < s.bfpos.toNat % 256 + s.bfpos.toNat / 256 ∨
        (i = .stdWrn ∨ i = .lxpWrn) ∧ 127 < s.count.toNat) → t.cstat = 0)

/-- Commands never write an operand register or array, the strap, or what the host has yet to do, but that STD.ADDR writes
ADDR and the CRC commands write CRCACC (R38, R40, R50). That a wire row, run as an instruction, writes none of them at all is
the model's choice (assumption log 5), not a rule's. -/
def Obligations.OperandsAreNeverWritten : Prop :=
  ∀ (i : Instr) (s t : State), exec i s = .next t →
    t.crcin = s.crcin ∧ t.bfr = s.bfr ∧ t.bfpos = s.bfpos ∧ t.bfv = s.bfv ∧ t.fsel = s.fsel ∧ t.start = s.start ∧
    t.count = s.count ∧ t.ilen = s.ilen ∧ t.bser = s.bser ∧ t.dser = s.dser ∧
    (∀ k, readCell t.wval k = readCell s.wval k) ∧ (∀ k, readCell t.ibuf k = readCell s.ibuf k) ∧
    t.serialMode = s.serialMode ∧ t.pending = s.pending ∧ t.reply = s.reply ∧ t.draws = s.draws ∧
    (i ≠ .stdAddr → t.addr = s.addr) ∧ (i ≠ .crcInit → i ≠ .crcByte → i ≠ .crcBuf → t.crcacc = s.crcacc)

/-- Results last until a command of their own group: of the commands only the bit-field commands write BFQ, only the
encoders OBUF and OLEN, only the decoders the decode results (R53, R355). That a request row, run as an instruction, writes
what the encoders write and a response row what the decoders write, and neither anything more, is the model's choice
(assumption log 5), not a rule's. -/
def Obligations.ResultsOfOtherGroupsSurvive : Prop :=
  ∀ (i : Instr) (s t : State), exec i s = .next t →
    (i ≠ .bfGet → i ≠ .bfSet → t.bfq = s.bfq) ∧
    (i ∉ [.stdRd, .stdWr1, .stdWrn, .lxpRd, .lxpWr1, .lxpWrn] → i.space ≠ .stdReq → i.space ≠ .lxpReq →
      t.olen = s.olen ∧ ∀ k, readCell t.obuf k = readCell s.obuf k) ∧
    (i ≠ .stdDec → i ≠ .lxpDec → i.space ≠ .stdRsp → i.space ≠ .lxpRsp →
      t.rstat = s.rstat ∧ t.rstart = s.rstart ∧ t.rcount = s.rcount ∧ t.nval = s.nval ∧ t.rlen = s.rlen ∧
      t.rbser = s.rbser ∧ t.rdser = s.rdser ∧ t.serout = s.serout ∧ ∀ k, readCell t.rval k = readCell s.rval k)

/-- No command reads a result register, and none but a CRC command reads CRCACC: from two states that agree on the operands
(and, for the CRC commands, on CRCACC), BFQ and the frame with its length either get the same value in both or are left
alone in both, every decode result gets the same value from a decode command and is left alone by any other command, CSTAT
gets the same value, the operands still agree, and CRCACC gets the same value from a CRC command and is left alone by any
other (R53). -/
def Obligations.NoCommandReadsAResultRegister : Prop :=
  ∀ (i : Instr) (s s' t : State), i.space = .cmd → SameOperands s s' →
    (i ∈ [.crcInit, .crcByte, .crcBuf] → s.crcacc = s'.crcacc) → exec i s = .next t →
    ∃ t', exec i s' = .next t' ∧ SameOperands t t' ∧ t.cstat = t'.cstat ∧
      (if i ∈ [.crcInit, .crcByte, .crcBuf] then t.crcacc = t'.crcacc
        else t.crcacc = s.crcacc ∧ t'.crcacc = s'.crcacc) ∧
      (t.bfq = t'.bfq ∨ t.bfq = s.bfq ∧ t'.bfq = s'.bfq) ∧
      (t.olen = t'.olen ∧ t.obuf = t'.obuf ∨
        t.olen = s.olen ∧ t'.olen = s'.olen ∧ t.obuf = s.obuf ∧ t'.obuf = s'.obuf) ∧
      (i = .stdDec ∨ i = .lxpDec → t.rstat = t'.rstat ∧ t.rstart = t'.rstart ∧ t.rcount = t'.rcount ∧
        t.nval = t'.nval ∧ t.rlen = t'.rlen ∧ t.rval = t'.rval ∧ t.rbser = t'.rbser ∧ t.rdser = t'.rdser ∧
        t.serout = t'.serout) ∧
      (i ≠ .stdDec → i ≠ .lxpDec → t' = { t' with
        rstat := s'.rstat, rstart := s'.rstart, rcount := s'.rcount, nval := s'.nval, rlen := s'.rlen
        rval := s'.rval, rbser := s'.rbser, rdser := s'.rdser, serout := s'.serout })

/-- The frame invariant: after an encoder command OBUF[0:OLEN] is a frame whose last two bytes are the CRC of the others,
low byte first, or OLEN is 0 (R33, R188, R238 (a)). -/
def Obligations.EncodedFramesCarryTheirCrc : Prop :=
  ∀ (i : Instr) (s t : State), i ∈ [.stdRd, .stdWr1, .stdWrn, .lxpRd, .lxpWr1, .lxpWrn] → exec i s = .next t →
    ∃ f : List Byte, t.obuf = cellsOf f ∧ t.olen.toNat = f.length ∧
      (t.olen = 0 ∨ 2 ≤ f.length ∧ crc16 (f.take (f.length - 2)) = le16 f (f.length - 2))

/-- The state after reset satisfies the invariant. -/
def Obligations.ResetSatisfiesTheInvariant : Prop := Inv State.reset

/-- Every step keeps the invariant: the status words stay legal, the lengths stay within the buffers, the arrays stay
canonical and their valid parts stay what OLEN and NVAL say (93_implementation_defined.md U8, R42 to R50, R264 to
R266). -/
def Obligations.EveryStepKeepsTheInvariant : Prop := ∀ s t : State, Inv s → step s = .next t → Inv t

/-- A program whose accesses all reach something never stops: every step answers a next state, of which the same holds
(R261, R307). -/
def Obligations.SafeProgramsNeverStop : Prop := ∀ s : State, Safe s → ∃ t, step s = .next t ∧ Safe t

/-- The configuration is not changed by any step, reset included (R12, R27, R340). -/
def Obligations.ConfigurationNeverChanges : Prop := ∀ s t : State, step s = .next t → t.serialMode = s.serialMode
end

