-- ==== Sys2Proof/Laws/Bytes.lean ====
section
/-! SUPPORT. Laws of byte sequences, the field primitives and the serial fields. -/

namespace Sys2Proof

/-- `hi * 256 + lo` (R20). -/
theorem joinBytes_toNat (h l : Byte) : (joinBytes h l).toNat = h.toNat * 256 + l.toNat := by
  have := h.isLt; have := l.isLt
  simp only [joinBytes, BitVec.toNat_ofNat]; omega

theorem highByte_toNat (v : U16) : (highByte v).toNat = v.toNat / 256 := by
  have := v.isLt
  simp only [highByte, BitVec.toNat_setWidth, BitVec.toNat_ushiftRight, Nat.shiftRight_eq_div_pow]; omega

theorem lowByte_toNat (v : U16) : (lowByte v).toNat = v.toNat % 256 := by
  have e : v.toNat &&& 255 = v.toNat % 256 := Nat.and_two_pow_sub_one_eq_mod v.toNat 8
  have g : (0xFF : U16).toNat = 255 := rfl
  simp only [lowByte, BitVec.toNat_setWidth, BitVec.toNat_and, g, e]; omega

@[simp] theorem joinBytes_high_low (v : U16) : joinBytes (highByte v) (lowByte v) = v := by
  apply BitVec.eq_of_toNat_eq
  rw [joinBytes_toNat, highByte_toNat, lowByte_toNat]; omega

@[simp] theorem highByte_joinBytes (h l : Byte) : highByte (joinBytes h l) = h := by
  apply BitVec.eq_of_toNat_eq
  have := l.isLt
  rw [highByte_toNat, joinBytes_toNat]; omega

@[simp] theorem lowByte_joinBytes (h l : Byte) : lowByte (joinBytes h l) = l := by
  apply BitVec.eq_of_toNat_eq
  have := l.isLt
  rw [lowByte_toNat, joinBytes_toNat]; omega

@[simp] theorem byteAt_cons_zero (b : Byte) (l : List Byte) : byteAt (b :: l) 0 = b := rfl

@[simp] theorem byteAt_cons_succ (b : Byte) (l : List Byte) (i : Nat) : byteAt (b :: l) (i + 1) = byteAt l i := rfl

theorem byteAt_append_left {l : List Byte} (r : List Byte) {i : Nat} (h : i < l.length) :
    byteAt (l ++ r) i = byteAt l i := by
  simp [byteAt, List.getD, List.getElem?_append_left h]

theorem byteAt_append_right {l : List Byte} (r : List Byte) {i : Nat} (h : l.length ≤ i) :
    byteAt (l ++ r) i = byteAt r (i - l.length) := by
  simp [byteAt, List.getD, List.getElem?_append_right h]

@[simp] theorem putBe16_length (v : U16) : (putBe16 v).length = 2 := rfl
@[simp] theorem putLe16_length (v : U16) : (putLe16 v).length = 2 := rfl
@[simp] theorem put16_length (fr : Framing) (v : U16) : (put16 fr v).length = 2 := by cases fr <;> rfl
@[simp] theorem serialBytes_length (s : Serial) : (serialBytes s).length = 10 := rfl

/-- A framing's read of the two bytes its write put gives the value back (R20). -/
@[simp] theorem get16_put16 (fr : Framing) (v : U16) (r : List Byte) : get16 fr (put16 fr v ++ r) 0 = v := by
  cases fr <;> simp [get16, put16, be16, le16, putBe16, putLe16]

theorem get16_append_right (fr : Framing) {l : List Byte} (r : List Byte) {i : Nat} (h : l.length ≤ i) :
    get16 fr (l ++ r) i = get16 fr r (i - l.length) := by
  have e : i + 1 - l.length = i - l.length + 1 := by omega
  cases fr <;>
    simp [get16, be16, le16, byteAt_append_right r h, byteAt_append_right r (show l.length ≤ i + 1 by omega), e]

theorem get16_append_left (fr : Framing) {l : List Byte} (r : List Byte) {i : Nat} (h : i + 1 < l.length) :
    get16 fr (l ++ r) i = get16 fr l i := by
  cases fr <;> simp [get16, be16, le16, byteAt_append_left r h, byteAt_append_left r (show i < l.length by omega)]

@[simp] theorem get16_cons_succ (fr : Framing) (b : Byte) (l : List Byte) (i : Nat) :
    get16 fr (b :: l) (i + 1) = get16 fr l i := by cases fr <;> rfl

/-- The two bytes at an index are the framing's write of the value read there (R20). -/
theorem put16_get16 (fr : Framing) (a b : Byte) (r : List Byte) : put16 fr (get16 fr (a :: b :: r) 0) = [a, b] := by
  cases fr <;> simp [get16, put16, be16, le16, putBe16, putLe16]

@[simp] theorem serialOf_serialBytes (s : Serial) (r : List Byte) : serialOf (serialBytes s ++ r) = s := rfl

/-- Ten bytes are the bytes of the serial they stand for (R47). -/
theorem serialBytes_serialOf {l : List Byte} (h : l.length = 10) : serialBytes (serialOf l) = l := by
  match l, h with
  | [_, _, _, _, _, _, _, _, _, _], _ => rfl

@[simp] theorem slice_length (l : List Byte) (a b : Nat) : (slice l a b).length = min (b - a) (l.length - a) := by
  simp [slice]

/-- The header serials of a mode fill the bytes 2 to `H - 1` (R107). -/
theorem headerSerialBytes_length {ser : HeaderSerials} {m : SerialMode} (h : ser.fits m = true) :
    (headerSerialBytes ser).length + 2 = m.headerBytes := by
  cases ser <;> cases m <;> first | rfl | (simp [HeaderSerials.fits] at h)

theorem selectSerials_fits (m : SerialMode) (b d : Serial) : (selectSerials m b d).fits m = true := by
  cases m <;> rfl

theorem readSerials_fits (m : SerialMode) (buf : List Byte) : (readSerials m buf).fits m = true := by
  cases m <;> rfl

/-- A received header gives back the serials that were sent (R107, R229). -/
theorem readSerials_header {ser : HeaderSerials} {m : SerialMode} (h : ser.fits m = true) (a b : Byte)
    (r : List Byte) : readSerials m (a :: b :: (headerSerialBytes ser ++ r)) = ser := by
  cases ser <;> cases m <;> first | rfl | (simp [HeaderSerials.fits] at h)

@[simp] theorem headerLength_std : headerLength .std = 2 := rfl
@[simp] theorem headerLength_lxp (m : SerialMode) : headerLength (.lxp m) = m.headerBytes := rfl

/-- `H` is 22 or 12 (R12). -/
theorem headerBytes_bounds (m : SerialMode) : 12 ≤ m.headerBytes ∧ m.headerBytes ≤ 22 := by
  cases m <;> decide

@[simp] theorem flatMap_put16_length (fr : Framing) (vs : List U16) : (vs.flatMap (put16 fr)).length = 2 * vs.length := by
  induction vs with
  | nil => rfl
  | cons v vs ih => simp [ih]; omega

/-- Values written one after the other are read back, in order (R110). -/
@[simp] theorem valuesOf_flatMap (fr : Framing) (vs : List U16) : valuesOf fr (vs.flatMap (put16 fr)) = vs := by
  induction vs with
  | nil => rfl
  | cons v vs ih =>
    have h : ∃ a b, put16 fr v = [a, b] := by cases fr <;> exact ⟨_, _, rfl⟩
    obtain ⟨a, b, e⟩ := h
    have g : get16 fr [a, b] 0 = v := by have := get16_put16 fr v []; rwa [e] at this
    simp [List.flatMap_cons, e, valuesOf, g, ih]

theorem valuesOf_length (fr : Framing) (l : List Byte) : (valuesOf fr l).length = l.length / 2 := by
  induction l using valuesOf.induct with
  | case1 a b rest ih => simp [valuesOf, ih]; omega
  | case2 l h =>
    match l, h with
    | [], _ => rfl
    | [_], _ => simp [valuesOf]
    | a :: b :: rest, h => exact absurd rfl (h a b rest)

/-- An even number of bytes is the values read from it, written one after the other. -/
theorem flatMap_valuesOf (fr : Framing) {l : List Byte} (h : l.length % 2 = 0) :
    (valuesOf fr l).flatMap (put16 fr) = l := by
  induction l using valuesOf.induct with
  | case1 a b rest ih =>
    have : rest.length % 2 = 0 := by simp at h; omega
    simp [valuesOf, put16_get16, ih this]
  | case2 l hl =>
    match l, hl, h with
    | [], _, _ => rfl
    | [_], _, h => simp at h
    | a :: b :: rest, hl, _ => exact absurd rfl (hl a b rest)

/-- Value `i` of a data segment is the framing's read at byte `2 i` (R194, R233). -/
theorem valuesOf_eq_map (fr : Framing) (l r : List Byte) :
    valuesOf fr l = (List.range (l.length / 2)).map (fun i => get16 fr (l ++ r) (2 * i)) := by
  induction l using valuesOf.induct with
  | case1 a b rest ih =>
    have e : (rest.length + 1 + 1) / 2 = rest.length / 2 + 1 := by omega
    have g : get16 fr (a :: b :: (rest ++ r)) 0 = get16 fr [a, b] 0 := by cases fr <;> rfl
    simp only [valuesOf, List.length_cons, e, List.range_succ_eq_map, List.map_cons, List.map_map, ih,
      List.cons_append, Nat.mul_zero, g]
    congr 1
    apply List.map_congr_left
    intro i _
    simp [Nat.mul_succ]
  | case2 l h =>
    match l, h with
    | [], _ => rfl
    | [_], _ => simp [valuesOf]
    | a :: b :: rest, h => exact absurd rfl (h a b rest)

end Sys2Proof
end

