-- ==== Sys2Proof/Laws/Cells.lean ====
section
/-! SUPPORT. Laws of the arrays: reads and writes of elements, and the canonical form that every operation keeps. -/

namespace Sys2Proof.Machine

variable {w : Nat}

/-- A read after a write of the same element gives the value written. -/
@[simp] theorem readCell_writeCell_same (c : Cells w) (i : Nat) (v : BitVec w) :
    readCell (writeCell c i v) i = some v := by
  induction c with
  | nil => simp [writeCell, readCell]
  | cons p c ih =>
    obtain ⟨j, u⟩ := p
    by_cases h1 : i < j
    · simp [writeCell, h1, readCell]
    · by_cases h2 : i = j <;> simp [writeCell, h1, h2, readCell, ih]

/-- A write leaves every other element alone. -/
theorem readCell_writeCell_other (c : Cells w) {i j : Nat} (v : BitVec w) (h : j ≠ i) :
    readCell (writeCell c i v) j = readCell c j := by
  induction c with
  | nil => simp [writeCell, readCell, h]
  | cons p c ih =>
    obtain ⟨k, u⟩ := p
    by_cases h1 : i < k
    · simp [writeCell, h1, readCell, h]
    · by_cases h2 : i = k
      · subst h2; simp [writeCell, readCell, h]
      · simp [writeCell, h1, h2, readCell, ih]

/-- The first index of a canonical array is below the bound, and so is the rest canonical. -/
theorem cellsWf_tail {bound : Nat} {p : Nat × BitVec w} {c : Cells w} (h : cellsWf bound (p :: c) = true) :
    cellsWf bound c = true := by
  match c with
  | [] => rfl
  | q :: r => simp [cellsWf] at h; exact h.2

theorem cellsWf_head {bound : Nat} {p : Nat × BitVec w} {c : Cells w} (h : cellsWf bound (p :: c) = true) :
    p.1 < bound := by
  induction c generalizing p with
  | nil => simpa [cellsWf] using h
  | cons q r ih => simp [cellsWf] at h; have := ih h.2; omega

/-- A write of an element below the bound keeps the canonical form. -/
theorem cellsWf_writeCell {bound : Nat} {c : Cells w} {i : Nat} (v : BitVec w) (hc : cellsWf bound c = true)
    (hi : i < bound) : cellsWf bound (writeCell c i v) = true := by
  induction c with
  | nil => simp [writeCell, cellsWf, hi]
  | cons p c ih =>
    obtain ⟨j, u⟩ := p
    by_cases h1 : i < j
    · simp [writeCell, h1, cellsWf, hc]
    · by_cases h2 : i = j
      · subst h2
        match c, hc with
        | [], _ => simp [writeCell, cellsWf, hi]
        | q :: r, hc => simpa [writeCell, cellsWf] using hc
      · have ih' := ih (cellsWf_tail hc)
        match c, hc, ih' with
        | [], hc, _ => simp [writeCell, h1, h2, cellsWf, hi]; omega
        | (k, x) :: r, hc, ih' =>
          simp only [cellsWf, Bool.and_eq_true, decide_eq_true_eq] at hc
          by_cases h3 : i < k
          · simp only [writeCell, h3, if_true] at ih'
            simp only [writeCell, h1, h2, h3, if_false, if_true, cellsWf, Bool.and_eq_true, decide_eq_true_eq] at ih' ⊢
            exact ⟨by omega, ih'⟩
          · by_cases h4 : i = k
            · subst h4
              simp only [writeCell, h1, h2, h3, if_false, if_true, cellsWf, Bool.and_eq_true,
                decide_eq_true_eq] at ih' ⊢
              exact ⟨hc.1, ih'⟩
            · simp only [writeCell, h1, h2, h3, h4, if_false, cellsWf, Bool.and_eq_true,
                decide_eq_true_eq] at ih' ⊢
              exact ⟨hc.1, ih'⟩

theorem readCell_cellsFrom (k : Nat) (l : List (BitVec w)) (i : Nat) :
    readCell (cellsFrom k l) i = if k ≤ i then l[i - k]? else none := by
  induction l generalizing k with
  | nil => simp [cellsFrom, readCell]
  | cons v l ih =>
    by_cases h : i = k
    · subst h; simp [cellsFrom, readCell]
    · simp only [cellsFrom, readCell, h, if_false, ih]
      by_cases h2 : k + 1 ≤ i
      · have : i - k = (i - (k + 1)) + 1 := by omega
        simp [h2, show k ≤ i by omega, this]
      · simp [h2, show ¬ k ≤ i by omega]

/-- Element `i` of an array made of a list holds item `i` of the list, and no element beyond it holds a value. -/
@[simp] theorem readCell_cellsOf (l : List (BitVec w)) (i : Nat) : readCell (cellsOf l) i = l[i]? := by
  simp [cellsOf, readCell_cellsFrom]

theorem cellsFrom_indices (k : Nat) (l : List (BitVec w)) :
    (cellsFrom k l).map Prod.fst = List.range' k l.length := by
  induction l generalizing k with
  | nil => rfl
  | cons v l ih => simp [cellsFrom, ih, List.range'_succ]

/-- The elements that hold a value are the first ones, one for each item of the list. -/
@[simp] theorem cellsOf_indices (l : List (BitVec w)) : (cellsOf l).map Prod.fst = List.range l.length := by
  simp [cellsOf, cellsFrom_indices, List.range_eq_range']

theorem cellsWf_cellsFrom {bound : Nat} (k : Nat) (l : List (BitVec w)) (h : k + l.length ≤ bound) :
    cellsWf bound (cellsFrom k l) = true := by
  induction l generalizing k with
  | nil => rfl
  | cons v l ih =>
    match l with
    | [] => simp at h; simp [cellsFrom, cellsWf]; omega
    | u :: r =>
      have := ih (k + 1) (by simp at h ⊢; omega)
      simpa [cellsFrom, cellsWf] using this

/-- An array made of a list that fits is canonical. -/
theorem cellsWf_cellsOf {bound : Nat} {l : List (BitVec w)} (h : l.length ≤ bound) :
    cellsWf bound (cellsOf l) = true := cellsWf_cellsFrom 0 l (by simpa using h)

theorem cellsWf_writeCells {bound : Nat} (l : List (BitVec w)) (k : Nat) {c : Cells w} (hc : cellsWf bound c = true)
    (h : k + l.length ≤ bound) : cellsWf bound (writeCells k l c) = true := by
  induction l generalizing k c with
  | nil => exact hc
  | cons v l ih =>
    simp at h
    exact ih (k + 1) (cellsWf_writeCell v hc (by omega)) (by omega)

theorem readCell_writeCells_before (l : List (BitVec w)) (k : Nat) (c : Cells w) {i : Nat} (h : i < k) :
    readCell (writeCells k l c) i = readCell c i := by
  induction l generalizing k c with
  | nil => rfl
  | cons v l ih =>
    rw [writeCells, ih (k + 1) _ (by omega), readCell_writeCell_other c v (by omega)]

/-- After successive writes from element `k` on, element `k + i` holds item `i`. -/
theorem readCell_writeCells (l : List (BitVec w)) (k : Nat) (c : Cells w) {i : Nat} (h : i < l.length) :
    readCell (writeCells k l c) (k + i) = l[i]? := by
  induction l generalizing k c i with
  | nil => simp at h
  | cons v l ih =>
    match i with
    | 0 => rw [writeCells, readCell_writeCells_before l (k + 1) _ (by omega)]; simp
    | i + 1 =>
      rw [writeCells, show k + (i + 1) = (k + 1) + i by omega, ih (k + 1) _ (by simpa using h)]
      simp

/-- Reading the first elements of an array back as a list. -/
theorem map_getD_range {α : Type} (l : List α) (f : Nat → Option α) (g : Nat → α) (h : ∀ i, i < l.length → f i = l[i]?) :
    (List.range l.length).map (fun i => (f i).getD (g i)) = l := by
  apply List.ext_getElem?
  intro i
  by_cases hi : i < l.length
  · simp [hi, h i hi]
  · simp [hi]

/-- A byte write below BUF_SIZE keeps the canonical form. -/
theorem Memory.wf_writeCell {m : Memory} {i : Nat} (v : Byte) (h : Memory.wf m = true) (hi : i < Config.bufSize) :
    Memory.wf (writeCell m i v) = true := cellsWf_writeCell v h hi

/-- Successive byte writes below BUF_SIZE keep the canonical form. -/
theorem Memory.wf_writeCells {m : Memory} (l : List Byte) (k : Nat) (h : Memory.wf m = true)
    (hk : k + l.length ≤ Config.bufSize) : Memory.wf (writeCells k l m) = true := cellsWf_writeCells l k h hk

/-- A frame of at most BUF_SIZE bytes is stored in the canonical form. -/
theorem Memory.wf_cellsOf {l : List Byte} (h : l.length ≤ Config.bufSize) : Memory.wf (cellsOf l) = true :=
  cellsWf_cellsOf h

/-- The byte spaces are in their canonical form at reset. -/
theorem Memory.wf_reset : Memory.wf State.reset.ibuf = true ∧ Memory.wf State.reset.obuf = true := ⟨rfl, rfl⟩

end Sys2Proof.Machine
end

