-- ==== Sys2Proof/Laws/Crc.lean ====
section
/-! SUPPORT. Laws of the CRC and of closed frames. -/

namespace Sys2Proof

@[simp] theorem closeFrame_length (b : List Byte) : (closeFrame b).length = b.length + 2 := by simp [closeFrame]

@[simp] theorem crcFrom_nil (c : U16) : crcFrom c [] = c := rfl
@[simp] theorem crcFrom_cons (c : U16) (b : Byte) (l : List Byte) : crcFrom c (b :: l) = crcFrom (crcStep c b) l := rfl

theorem crcFrom_append (c : U16) (l r : List Byte) : crcFrom c (l ++ r) = crcFrom (crcFrom c l) r := by
  simp [crcFrom, List.foldl_append]

theorem closeFrame_take (b : List Byte) : (closeFrame b).take ((closeFrame b).length - 2) = b := by
  simp [closeFrame]

theorem closeFrame_trailer (b : List Byte) : le16 (closeFrame b) ((closeFrame b).length - 2) = crc16 b := by
  have h := get16_append_right (.lxp .both) (l := b) (putLe16 (crc16 b)) (i := b.length) (le_refl _)
  have g := get16_put16 (.lxp .both) (crc16 b) []
  simp only [get16, put16, List.append_nil, Nat.sub_self] at h g
  simp [closeFrame, h, g]

/-- Every closed frame passes the checksum test (R33). -/
@[simp] theorem crcOk_closeFrame (b : List Byte) : crcOk (closeFrame b) = true := by
  simp only [crcOk, closeFrame_take, closeFrame_trailer, decide_true]

/-- A sequence of at least two bytes that passes the checksum test is a closed frame (R33). -/
theorem closeFrame_of_crcOk {f : List Byte} (hl : 2 ≤ f.length) (h : crcOk f = true) :
    closeFrame (f.take (f.length - 2)) = f := by
  have hc : crc16 (f.take (f.length - 2)) = le16 f (f.length - 2) := of_decide_eq_true h
  have hd : (f.drop (f.length - 2)).length = 2 := by simp; omega
  obtain ⟨x, y, hxy⟩ : ∃ x y, f.drop (f.length - 2) = [x, y] := by
    match h' : f.drop (f.length - 2), hd with
    | [x, y], _ => exact ⟨x, y, rfl⟩
  have hf : f = f.take (f.length - 2) ++ [x, y] := by
    rw [← hxy, List.take_append_drop]
  have ht : (f.take (f.length - 2)).length = f.length - 2 := by simp
  have hg : le16 f (f.length - 2) = joinBytes y x := by
    have := get16_append_right (.lxp .both) (l := f.take (f.length - 2)) [x, y] (i := f.length - 2) (by omega)
    rw [← hf] at this
    simpa [get16, le16, ht] using this
  rw [closeFrame, hc, hg, putLe16, highByte_joinBytes, lowByte_joinBytes]
  exact hf.symm

theorem crcShift_zero : crcShift 0 = 0 := by decide

/-- Shifting is linear over XOR: the circuit is a linear feedback shift register (R140). -/
theorem crcShift_xor (a b : U16) : crcShift (a ^^^ b) = crcShift a ^^^ crcShift b := by
  unfold crcShift
  simp only [BitVec.getLsbD_xor, BitVec.ushiftRight_xor_distrib]
  cases a.getLsbD 0 <;> cases b.getLsbD 0 <;> apply BitVec.eq_of_getLsbD_eq <;> intro i _ <;>
    simp <;> cases (a >>> 1).getLsbD i <;> cases (b >>> 1).getLsbD i <;> cases Config.crcXor.getLsbD i <;> simp_all

theorem crcShifts_xor (n : Nat) (a b : U16) : crcShifts n (a ^^^ b) = crcShifts n a ^^^ crcShifts n b := by
  induction n generalizing a b with
  | zero => rfl
  | succ n ih => simp [crcShifts, crcShift_xor, ih]

end Sys2Proof
end

