-- ==== Sys2Proof/Laws/State.lean ====
section
/-! SUPPORT. One lemma per field per update of the state, true by `rfl`, so that no later proof unfolds a record
update. -/

namespace Sys2Proof.Machine

variable (s : State)

@[simp] theorem State.setCerr_serialMode (e : CErr) : (s.setCerr e).serialMode = s.serialMode := rfl
@[simp] theorem State.setCerr_cstat (e : CErr) : (s.setCerr e).cstat = cerrCode e := rfl
@[simp] theorem State.setCerr_crcacc (e : CErr) : (s.setCerr e).crcacc = s.crcacc := rfl
@[simp] theorem State.setCerr_crcin (e : CErr) : (s.setCerr e).crcin = s.crcin := rfl
@[simp] theorem State.setCerr_bfr (e : CErr) : (s.setCerr e).bfr = s.bfr := rfl
@[simp] theorem State.setCerr_bfpos (e : CErr) : (s.setCerr e).bfpos = s.bfpos := rfl
@[simp] theorem State.setCerr_bfv (e : CErr) : (s.setCerr e).bfv = s.bfv := rfl
@[simp] theorem State.setCerr_bfq (e : CErr) : (s.setCerr e).bfq = s.bfq := rfl
@[simp] theorem State.setCerr_addr (e : CErr) : (s.setCerr e).addr = s.addr := rfl
@[simp] theorem State.setCerr_fsel (e : CErr) : (s.setCerr e).fsel = s.fsel := rfl
@[simp] theorem State.setCerr_start (e : CErr) : (s.setCerr e).start = s.start := rfl
@[simp] theorem State.setCerr_count (e : CErr) : (s.setCerr e).count = s.count := rfl
@[simp] theorem State.setCerr_ilen (e : CErr) : (s.setCerr e).ilen = s.ilen := rfl
@[simp] theorem State.setCerr_olen (e : CErr) : (s.setCerr e).olen = s.olen := rfl
@[simp] theorem State.setCerr_rstat (e : CErr) : (s.setCerr e).rstat = s.rstat := rfl
@[simp] theorem State.setCerr_rstart (e : CErr) : (s.setCerr e).rstart = s.rstart := rfl
@[simp] theorem State.setCerr_rcount (e : CErr) : (s.setCerr e).rcount = s.rcount := rfl
@[simp] theorem State.setCerr_nval (e : CErr) : (s.setCerr e).nval = s.nval := rfl
@[simp] theorem State.setCerr_rlen (e : CErr) : (s.setCerr e).rlen = s.rlen := rfl
@[simp] theorem State.setCerr_bser (e : CErr) : (s.setCerr e).bser = s.bser := rfl
@[simp] theorem State.setCerr_dser (e : CErr) : (s.setCerr e).dser = s.dser := rfl
@[simp] theorem State.setCerr_rbser (e : CErr) : (s.setCerr e).rbser = s.rbser := rfl
@[simp] theorem State.setCerr_rdser (e : CErr) : (s.setCerr e).rdser = s.rdser := rfl
@[simp] theorem State.setCerr_serout (e : CErr) : (s.setCerr e).serout = s.serout := rfl
@[simp] theorem State.setCerr_wval (e : CErr) : (s.setCerr e).wval = s.wval := rfl
@[simp] theorem State.setCerr_rval (e : CErr) : (s.setCerr e).rval = s.rval := rfl
@[simp] theorem State.setCerr_ibuf (e : CErr) : (s.setCerr e).ibuf = s.ibuf := rfl
@[simp] theorem State.setCerr_obuf (e : CErr) : (s.setCerr e).obuf = s.obuf := rfl
@[simp] theorem State.setCerr_pending (e : CErr) : (s.setCerr e).pending = s.pending := rfl
@[simp] theorem State.setCerr_reply (e : CErr) : (s.setCerr e).reply = s.reply := rfl
@[simp] theorem State.setCerr_draws (e : CErr) : (s.setCerr e).draws = s.draws := rfl

@[simp] theorem State.setCrcacc_serialMode (v : U16) : (s.setCrcacc v).serialMode = s.serialMode := rfl
@[simp] theorem State.setCrcacc_cstat (v : U16) : (s.setCrcacc v).cstat = s.cstat := rfl
@[simp] theorem State.setCrcacc_crcacc (v : U16) : (s.setCrcacc v).crcacc = v := rfl
@[simp] theorem State.setCrcacc_crcin (v : U16) : (s.setCrcacc v).crcin = s.crcin := rfl
@[simp] theorem State.setCrcacc_bfr (v : U16) : (s.setCrcacc v).bfr = s.bfr := rfl
@[simp] theorem State.setCrcacc_bfpos (v : U16) : (s.setCrcacc v).bfpos = s.bfpos := rfl
@[simp] theorem State.setCrcacc_bfv (v : U16) : (s.setCrcacc v).bfv = s.bfv := rfl
@[simp] theorem State.setCrcacc_bfq (v : U16) : (s.setCrcacc v).bfq = s.bfq := rfl
@[simp] theorem State.setCrcacc_addr (v : U16) : (s.setCrcacc v).addr = s.addr := rfl
@[simp] theorem State.setCrcacc_fsel (v : U16) : (s.setCrcacc v).fsel = s.fsel := rfl
@[simp] theorem State.setCrcacc_start (v : U16) : (s.setCrcacc v).start = s.start := rfl
@[simp] theorem State.setCrcacc_count (v : U16) : (s.setCrcacc v).count = s.count := rfl
@[simp] theorem State.setCrcacc_ilen (v : U16) : (s.setCrcacc v).ilen = s.ilen := rfl
@[simp] theorem State.setCrcacc_olen (v : U16) : (s.setCrcacc v).olen = s.olen := rfl
@[simp] theorem State.setCrcacc_rstat (v : U16) : (s.setCrcacc v).rstat = s.rstat := rfl
@[simp] theorem State.setCrcacc_rstart (v : U16) : (s.setCrcacc v).rstart = s.rstart := rfl
@[simp] theorem State.setCrcacc_rcount (v : U16) : (s.setCrcacc v).rcount = s.rcount := rfl
@[simp] theorem State.setCrcacc_nval (v : U16) : (s.setCrcacc v).nval = s.nval := rfl
@[simp] theorem State.setCrcacc_rlen (v : U16) : (s.setCrcacc v).rlen = s.rlen := rfl
@[simp] theorem State.setCrcacc_bser (v : U16) : (s.setCrcacc v).bser = s.bser := rfl
@[simp] theorem State.setCrcacc_dser (v : U16) : (s.setCrcacc v).dser = s.dser := rfl
@[simp] theorem State.setCrcacc_rbser (v : U16) : (s.setCrcacc v).rbser = s.rbser := rfl
@[simp] theorem State.setCrcacc_rdser (v : U16) : (s.setCrcacc v).rdser = s.rdser := rfl
@[simp] theorem State.setCrcacc_serout (v : U16) : (s.setCrcacc v).serout = s.serout := rfl
@[simp] theorem State.setCrcacc_wval (v : U16) : (s.setCrcacc v).wval = s.wval := rfl
@[simp] theorem State.setCrcacc_rval (v : U16) : (s.setCrcacc v).rval = s.rval := rfl
@[simp] theorem State.setCrcacc_ibuf (v : U16) : (s.setCrcacc v).ibuf = s.ibuf := rfl
@[simp] theorem State.setCrcacc_obuf (v : U16) : (s.setCrcacc v).obuf = s.obuf := rfl
@[simp] theorem State.setCrcacc_pending (v : U16) : (s.setCrcacc v).pending = s.pending := rfl
@[simp] theorem State.setCrcacc_reply (v : U16) : (s.setCrcacc v).reply = s.reply := rfl
@[simp] theorem State.setCrcacc_draws (v : U16) : (s.setCrcacc v).draws = s.draws := rfl

@[simp] theorem State.setBfq_serialMode (v : U16) : (s.setBfq v).serialMode = s.serialMode := rfl
@[simp] theorem State.setBfq_cstat (v : U16) : (s.setBfq v).cstat = s.cstat := rfl
@[simp] theorem State.setBfq_crcacc (v : U16) : (s.setBfq v).crcacc = s.crcacc := rfl
@[simp] theorem State.setBfq_crcin (v : U16) : (s.setBfq v).crcin = s.crcin := rfl
@[simp] theorem State.setBfq_bfr (v : U16) : (s.setBfq v).bfr = s.bfr := rfl
@[simp] theorem State.setBfq_bfpos (v : U16) : (s.setBfq v).bfpos = s.bfpos := rfl
@[simp] theorem State.setBfq_bfv (v : U16) : (s.setBfq v).bfv = s.bfv := rfl
@[simp] theorem State.setBfq_bfq (v : U16) : (s.setBfq v).bfq = v := rfl
@[simp] theorem State.setBfq_addr (v : U16) : (s.setBfq v).addr = s.addr := rfl
@[simp] theorem State.setBfq_fsel (v : U16) : (s.setBfq v).fsel = s.fsel := rfl
@[simp] theorem State.setBfq_start (v : U16) : (s.setBfq v).start = s.start := rfl
@[simp] theorem State.setBfq_count (v : U16) : (s.setBfq v).count = s.count := rfl
@[simp] theorem State.setBfq_ilen (v : U16) : (s.setBfq v).ilen = s.ilen := rfl
@[simp] theorem State.setBfq_olen (v : U16) : (s.setBfq v).olen = s.olen := rfl
@[simp] theorem State.setBfq_rstat (v : U16) : (s.setBfq v).rstat = s.rstat := rfl
@[simp] theorem State.setBfq_rstart (v : U16) : (s.setBfq v).rstart = s.rstart := rfl
@[simp] theorem State.setBfq_rcount (v : U16) : (s.setBfq v).rcount = s.rcount := rfl
@[simp] theorem State.setBfq_nval (v : U16) : (s.setBfq v).nval = s.nval := rfl
@[simp] theorem State.setBfq_rlen (v : U16) : (s.setBfq v).rlen = s.rlen := rfl
@[simp] theorem State.setBfq_bser (v : U16) : (s.setBfq v).bser = s.bser := rfl
@[simp] theorem State.setBfq_dser (v : U16) : (s.setBfq v).dser = s.dser := rfl
@[simp] theorem State.setBfq_rbser (v : U16) : (s.setBfq v).rbser = s.rbser := rfl
@[simp] theorem State.setBfq_rdser (v : U16) : (s.setBfq v).rdser = s.rdser := rfl
@[simp] theorem State.setBfq_serout (v : U16) : (s.setBfq v).serout = s.serout := rfl
@[simp] theorem State.setBfq_wval (v : U16) : (s.setBfq v).wval = s.wval := rfl
@[simp] theorem State.setBfq_rval (v : U16) : (s.setBfq v).rval = s.rval := rfl
@[simp] theorem State.setBfq_ibuf (v : U16) : (s.setBfq v).ibuf = s.ibuf := rfl
@[simp] theorem State.setBfq_obuf (v : U16) : (s.setBfq v).obuf = s.obuf := rfl
@[simp] theorem State.setBfq_pending (v : U16) : (s.setBfq v).pending = s.pending := rfl
@[simp] theorem State.setBfq_reply (v : U16) : (s.setBfq v).reply = s.reply := rfl
@[simp] theorem State.setBfq_draws (v : U16) : (s.setBfq v).draws = s.draws := rfl

@[simp] theorem State.setAddr_serialMode (v : Byte) : (s.setAddr v).serialMode = s.serialMode := rfl
@[simp] theorem State.setAddr_cstat (v : Byte) : (s.setAddr v).cstat = s.cstat := rfl
@[simp] theorem State.setAddr_crcacc (v : Byte) : (s.setAddr v).crcacc = s.crcacc := rfl
@[simp] theorem State.setAddr_crcin (v : Byte) : (s.setAddr v).crcin = s.crcin := rfl
@[simp] theorem State.setAddr_bfr (v : Byte) : (s.setAddr v).bfr = s.bfr := rfl
@[simp] theorem State.setAddr_bfpos (v : Byte) : (s.setAddr v).bfpos = s.bfpos := rfl
@[simp] theorem State.setAddr_bfv (v : Byte) : (s.setAddr v).bfv = s.bfv := rfl
@[simp] theorem State.setAddr_bfq (v : Byte) : (s.setAddr v).bfq = s.bfq := rfl
@[simp] theorem State.setAddr_addr (v : Byte) : (s.setAddr v).addr = v := rfl
@[simp] theorem State.setAddr_fsel (v : Byte) : (s.setAddr v).fsel = s.fsel := rfl
@[simp] theorem State.setAddr_start (v : Byte) : (s.setAddr v).start = s.start := rfl
@[simp] theorem State.setAddr_count (v : Byte) : (s.setAddr v).count = s.count := rfl
@[simp] theorem State.setAddr_ilen (v : Byte) : (s.setAddr v).ilen = s.ilen := rfl
@[simp] theorem State.setAddr_olen (v : Byte) : (s.setAddr v).olen = s.olen := rfl
@[simp] theorem State.setAddr_rstat (v : Byte) : (s.setAddr v).rstat = s.rstat := rfl
@[simp] theorem State.setAddr_rstart (v : Byte) : (s.setAddr v).rstart = s.rstart := rfl
@[simp] theorem State.setAddr_rcount (v : Byte) : (s.setAddr v).rcount = s.rcount := rfl
@[simp] theorem State.setAddr_nval (v : Byte) : (s.setAddr v).nval = s.nval := rfl
@[simp] theorem State.setAddr_rlen (v : Byte) : (s.setAddr v).rlen = s.rlen := rfl
@[simp] theorem State.setAddr_bser (v : Byte) : (s.setAddr v).bser = s.bser := rfl
@[simp] theorem State.setAddr_dser (v : Byte) : (s.setAddr v).dser = s.dser := rfl
@[simp] theorem State.setAddr_rbser (v : Byte) : (s.setAddr v).rbser = s.rbser := rfl
@[simp] theorem State.setAddr_rdser (v : Byte) : (s.setAddr v).rdser = s.rdser := rfl
@[simp] theorem State.setAddr_serout (v : Byte) : (s.setAddr v).serout = s.serout := rfl
@[simp] theorem State.setAddr_wval (v : Byte) : (s.setAddr v).wval = s.wval := rfl
@[simp] theorem State.setAddr_rval (v : Byte) : (s.setAddr v).rval = s.rval := rfl
@[simp] theorem State.setAddr_ibuf (v : Byte) : (s.setAddr v).ibuf = s.ibuf := rfl
@[simp] theorem State.setAddr_obuf (v : Byte) : (s.setAddr v).obuf = s.obuf := rfl
@[simp] theorem State.setAddr_pending (v : Byte) : (s.setAddr v).pending = s.pending := rfl
@[simp] theorem State.setAddr_reply (v : Byte) : (s.setAddr v).reply = s.reply := rfl
@[simp] theorem State.setAddr_draws (v : Byte) : (s.setAddr v).draws = s.draws := rfl

@[simp] theorem State.putFrame_serialMode (f : List Byte) : (s.putFrame f).serialMode = s.serialMode := rfl
@[simp] theorem State.putFrame_cstat (f : List Byte) : (s.putFrame f).cstat = s.cstat := rfl
@[simp] theorem State.putFrame_crcacc (f : List Byte) : (s.putFrame f).crcacc = s.crcacc := rfl
@[simp] theorem State.putFrame_crcin (f : List Byte) : (s.putFrame f).crcin = s.crcin := rfl
@[simp] theorem State.putFrame_bfr (f : List Byte) : (s.putFrame f).bfr = s.bfr := rfl
@[simp] theorem State.putFrame_bfpos (f : List Byte) : (s.putFrame f).bfpos = s.bfpos := rfl
@[simp] theorem State.putFrame_bfv (f : List Byte) : (s.putFrame f).bfv = s.bfv := rfl
@[simp] theorem State.putFrame_bfq (f : List Byte) : (s.putFrame f).bfq = s.bfq := rfl
@[simp] theorem State.putFrame_addr (f : List Byte) : (s.putFrame f).addr = s.addr := rfl
@[simp] theorem State.putFrame_fsel (f : List Byte) : (s.putFrame f).fsel = s.fsel := rfl
@[simp] theorem State.putFrame_start (f : List Byte) : (s.putFrame f).start = s.start := rfl
@[simp] theorem State.putFrame_count (f : List Byte) : (s.putFrame f).count = s.count := rfl
@[simp] theorem State.putFrame_ilen (f : List Byte) : (s.putFrame f).ilen = s.ilen := rfl
@[simp] theorem State.putFrame_olen (f : List Byte) : (s.putFrame f).olen = BitVec.ofNat 16 f.length := rfl
@[simp] theorem State.putFrame_rstat (f : List Byte) : (s.putFrame f).rstat = s.rstat := rfl
@[simp] theorem State.putFrame_rstart (f : List Byte) : (s.putFrame f).rstart = s.rstart := rfl
@[simp] theorem State.putFrame_rcount (f : List Byte) : (s.putFrame f).rcount = s.rcount := rfl
@[simp] theorem State.putFrame_nval (f : List Byte) : (s.putFrame f).nval = s.nval := rfl
@[simp] theorem State.putFrame_rlen (f : List Byte) : (s.putFrame f).rlen = s.rlen := rfl
@[simp] theorem State.putFrame_bser (f : List Byte) : (s.putFrame f).bser = s.bser := rfl
@[simp] theorem State.putFrame_dser (f : List Byte) : (s.putFrame f).dser = s.dser := rfl
@[simp] theorem State.putFrame_rbser (f : List Byte) : (s.putFrame f).rbser = s.rbser := rfl
@[simp] theorem State.putFrame_rdser (f : List Byte) : (s.putFrame f).rdser = s.rdser := rfl
@[simp] theorem State.putFrame_serout (f : List Byte) : (s.putFrame f).serout = s.serout := rfl
@[simp] theorem State.putFrame_wval (f : List Byte) : (s.putFrame f).wval = s.wval := rfl
@[simp] theorem State.putFrame_rval (f : List Byte) : (s.putFrame f).rval = s.rval := rfl
@[simp] theorem State.putFrame_ibuf (f : List Byte) : (s.putFrame f).ibuf = s.ibuf := rfl
@[simp] theorem State.putFrame_obuf (f : List Byte) : (s.putFrame f).obuf = cellsOf f := rfl
@[simp] theorem State.putFrame_pending (f : List Byte) : (s.putFrame f).pending = s.pending := rfl
@[simp] theorem State.putFrame_reply (f : List Byte) : (s.putFrame f).reply = s.reply := rfl
@[simp] theorem State.putFrame_draws (f : List Byte) : (s.putFrame f).draws = s.draws := rfl

@[simp] theorem State.latch_serialMode (d : Decoded) : (s.latch d).serialMode = s.serialMode := rfl
@[simp] theorem State.latch_cstat (d : Decoded) : (s.latch d).cstat = s.cstat := rfl
@[simp] theorem State.latch_crcacc (d : Decoded) : (s.latch d).crcacc = s.crcacc := rfl
@[simp] theorem State.latch_crcin (d : Decoded) : (s.latch d).crcin = s.crcin := rfl
@[simp] theorem State.latch_bfr (d : Decoded) : (s.latch d).bfr = s.bfr := rfl
@[simp] theorem State.latch_bfpos (d : Decoded) : (s.latch d).bfpos = s.bfpos := rfl
@[simp] theorem State.latch_bfv (d : Decoded) : (s.latch d).bfv = s.bfv := rfl
@[simp] theorem State.latch_bfq (d : Decoded) : (s.latch d).bfq = s.bfq := rfl
@[simp] theorem State.latch_addr (d : Decoded) : (s.latch d).addr = s.addr := rfl
@[simp] theorem State.latch_fsel (d : Decoded) : (s.latch d).fsel = s.fsel := rfl
@[simp] theorem State.latch_start (d : Decoded) : (s.latch d).start = s.start := rfl
@[simp] theorem State.latch_count (d : Decoded) : (s.latch d).count = s.count := rfl
@[simp] theorem State.latch_ilen (d : Decoded) : (s.latch d).ilen = s.ilen := rfl
@[simp] theorem State.latch_olen (d : Decoded) : (s.latch d).olen = s.olen := rfl
@[simp] theorem State.latch_rstat (d : Decoded) : (s.latch d).rstat = packRstat d.diag d.serValid d.func d.excf d.exc d.addr := rfl
@[simp] theorem State.latch_rstart (d : Decoded) : (s.latch d).rstart = d.rstart := rfl
@[simp] theorem State.latch_rcount (d : Decoded) : (s.latch d).rcount = d.rcount := rfl
@[simp] theorem State.latch_nval (d : Decoded) : (s.latch d).nval = BitVec.ofNat 8 d.values.length := rfl
@[simp] theorem State.latch_rlen (d : Decoded) : (s.latch d).rlen = d.rlen := rfl
@[simp] theorem State.latch_bser (d : Decoded) : (s.latch d).bser = s.bser := rfl
@[simp] theorem State.latch_dser (d : Decoded) : (s.latch d).dser = s.dser := rfl
@[simp] theorem State.latch_rbser (d : Decoded) : (s.latch d).rbser = d.rbser := rfl
@[simp] theorem State.latch_rdser (d : Decoded) : (s.latch d).rdser = d.rdser := rfl
@[simp] theorem State.latch_serout (d : Decoded) : (s.latch d).serout = d.serout := rfl
@[simp] theorem State.latch_wval (d : Decoded) : (s.latch d).wval = s.wval := rfl
@[simp] theorem State.latch_rval (d : Decoded) : (s.latch d).rval = cellsOf d.values := rfl
@[simp] theorem State.latch_ibuf (d : Decoded) : (s.latch d).ibuf = s.ibuf := rfl
@[simp] theorem State.latch_obuf (d : Decoded) : (s.latch d).obuf = s.obuf := rfl
@[simp] theorem State.latch_pending (d : Decoded) : (s.latch d).pending = s.pending := rfl
@[simp] theorem State.latch_reply (d : Decoded) : (s.latch d).reply = s.reply := rfl
@[simp] theorem State.latch_draws (d : Decoded) : (s.latch d).draws = s.draws := rfl

@[simp] theorem State.arrive_serialMode (rest : List HostEvent) : (s.arrive rest).serialMode = s.serialMode := rfl
@[simp] theorem State.arrive_cstat (rest : List HostEvent) : (s.arrive rest).cstat = s.cstat := rfl
@[simp] theorem State.arrive_crcacc (rest : List HostEvent) : (s.arrive rest).crcacc = s.crcacc := rfl
@[simp] theorem State.arrive_crcin (rest : List HostEvent) : (s.arrive rest).crcin = s.crcin := rfl
@[simp] theorem State.arrive_bfr (rest : List HostEvent) : (s.arrive rest).bfr = s.bfr := rfl
@[simp] theorem State.arrive_bfpos (rest : List HostEvent) : (s.arrive rest).bfpos = s.bfpos := rfl
@[simp] theorem State.arrive_bfv (rest : List HostEvent) : (s.arrive rest).bfv = s.bfv := rfl
@[simp] theorem State.arrive_bfq (rest : List HostEvent) : (s.arrive rest).bfq = s.bfq := rfl
@[simp] theorem State.arrive_addr (rest : List HostEvent) : (s.arrive rest).addr = s.addr := rfl
@[simp] theorem State.arrive_fsel (rest : List HostEvent) : (s.arrive rest).fsel = s.fsel := rfl
@[simp] theorem State.arrive_start (rest : List HostEvent) : (s.arrive rest).start = s.start := rfl
@[simp] theorem State.arrive_count (rest : List HostEvent) : (s.arrive rest).count = s.count := rfl
@[simp] theorem State.arrive_ilen (rest : List HostEvent) : (s.arrive rest).ilen = s.ilen := rfl
@[simp] theorem State.arrive_olen (rest : List HostEvent) : (s.arrive rest).olen = s.olen := rfl
@[simp] theorem State.arrive_rstat (rest : List HostEvent) : (s.arrive rest).rstat = s.rstat := rfl
@[simp] theorem State.arrive_rstart (rest : List HostEvent) : (s.arrive rest).rstart = s.rstart := rfl
@[simp] theorem State.arrive_rcount (rest : List HostEvent) : (s.arrive rest).rcount = s.rcount := rfl
@[simp] theorem State.arrive_nval (rest : List HostEvent) : (s.arrive rest).nval = s.nval := rfl
@[simp] theorem State.arrive_rlen (rest : List HostEvent) : (s.arrive rest).rlen = s.rlen := rfl
@[simp] theorem State.arrive_bser (rest : List HostEvent) : (s.arrive rest).bser = s.bser := rfl
@[simp] theorem State.arrive_dser (rest : List HostEvent) : (s.arrive rest).dser = s.dser := rfl
@[simp] theorem State.arrive_rbser (rest : List HostEvent) : (s.arrive rest).rbser = s.rbser := rfl
@[simp] theorem State.arrive_rdser (rest : List HostEvent) : (s.arrive rest).rdser = s.rdser := rfl
@[simp] theorem State.arrive_serout (rest : List HostEvent) : (s.arrive rest).serout = s.serout := rfl
@[simp] theorem State.arrive_wval (rest : List HostEvent) : (s.arrive rest).wval = s.wval := rfl
@[simp] theorem State.arrive_rval (rest : List HostEvent) : (s.arrive rest).rval = s.rval := rfl
@[simp] theorem State.arrive_ibuf (rest : List HostEvent) : (s.arrive rest).ibuf = s.ibuf := rfl
@[simp] theorem State.arrive_obuf (rest : List HostEvent) : (s.arrive rest).obuf = s.obuf := rfl
@[simp] theorem State.arrive_pending (rest : List HostEvent) : (s.arrive rest).pending = rest := rfl
@[simp] theorem State.arrive_reply (rest : List HostEvent) : (s.arrive rest).reply = none := rfl
@[simp] theorem State.arrive_draws (rest : List HostEvent) : (s.arrive rest).draws = s.draws + 1 := rfl

@[simp] theorem State.answer_serialMode (v : U32) : (s.answer v).serialMode = s.serialMode := rfl
@[simp] theorem State.answer_cstat (v : U32) : (s.answer v).cstat = s.cstat := rfl
@[simp] theorem State.answer_crcacc (v : U32) : (s.answer v).crcacc = s.crcacc := rfl
@[simp] theorem State.answer_crcin (v : U32) : (s.answer v).crcin = s.crcin := rfl
@[simp] theorem State.answer_bfr (v : U32) : (s.answer v).bfr = s.bfr := rfl
@[simp] theorem State.answer_bfpos (v : U32) : (s.answer v).bfpos = s.bfpos := rfl
@[simp] theorem State.answer_bfv (v : U32) : (s.answer v).bfv = s.bfv := rfl
@[simp] theorem State.answer_bfq (v : U32) : (s.answer v).bfq = s.bfq := rfl
@[simp] theorem State.answer_addr (v : U32) : (s.answer v).addr = s.addr := rfl
@[simp] theorem State.answer_fsel (v : U32) : (s.answer v).fsel = s.fsel := rfl
@[simp] theorem State.answer_start (v : U32) : (s.answer v).start = s.start := rfl
@[simp] theorem State.answer_count (v : U32) : (s.answer v).count = s.count := rfl
@[simp] theorem State.answer_ilen (v : U32) : (s.answer v).ilen = s.ilen := rfl
@[simp] theorem State.answer_olen (v : U32) : (s.answer v).olen = s.olen := rfl
@[simp] theorem State.answer_rstat (v : U32) : (s.answer v).rstat = s.rstat := rfl
@[simp] theorem State.answer_rstart (v : U32) : (s.answer v).rstart = s.rstart := rfl
@[simp] theorem State.answer_rcount (v : U32) : (s.answer v).rcount = s.rcount := rfl
@[simp] theorem State.answer_nval (v : U32) : (s.answer v).nval = s.nval := rfl
@[simp] theorem State.answer_rlen (v : U32) : (s.answer v).rlen = s.rlen := rfl
@[simp] theorem State.answer_bser (v : U32) : (s.answer v).bser = s.bser := rfl
@[simp] theorem State.answer_dser (v : U32) : (s.answer v).dser = s.dser := rfl
@[simp] theorem State.answer_rbser (v : U32) : (s.answer v).rbser = s.rbser := rfl
@[simp] theorem State.answer_rdser (v : U32) : (s.answer v).rdser = s.rdser := rfl
@[simp] theorem State.answer_serout (v : U32) : (s.answer v).serout = s.serout := rfl
@[simp] theorem State.answer_wval (v : U32) : (s.answer v).wval = s.wval := rfl
@[simp] theorem State.answer_rval (v : U32) : (s.answer v).rval = s.rval := rfl
@[simp] theorem State.answer_ibuf (v : U32) : (s.answer v).ibuf = s.ibuf := rfl
@[simp] theorem State.answer_obuf (v : U32) : (s.answer v).obuf = s.obuf := rfl
@[simp] theorem State.answer_pending (v : U32) : (s.answer v).pending = s.pending := rfl
@[simp] theorem State.answer_reply (v : U32) : (s.answer v).reply = some v := rfl
@[simp] theorem State.answer_draws (v : U32) : (s.answer v).draws = s.draws := rfl

@[simp] theorem State.issue_serialMode (op : Nat) : (s.issue op).serialMode = s.serialMode := rfl
@[simp] theorem State.issue_cstat (op : Nat) : (s.issue op).cstat = s.cstat := rfl
@[simp] theorem State.issue_crcacc (op : Nat) : (s.issue op).crcacc = s.crcacc := rfl
@[simp] theorem State.issue_crcin (op : Nat) : (s.issue op).crcin = s.crcin := rfl
@[simp] theorem State.issue_bfr (op : Nat) : (s.issue op).bfr = s.bfr := rfl
@[simp] theorem State.issue_bfpos (op : Nat) : (s.issue op).bfpos = s.bfpos := rfl
@[simp] theorem State.issue_bfv (op : Nat) : (s.issue op).bfv = s.bfv := rfl
@[simp] theorem State.issue_bfq (op : Nat) : (s.issue op).bfq = s.bfq := rfl
@[simp] theorem State.issue_addr (op : Nat) : (s.issue op).addr = s.addr := rfl
@[simp] theorem State.issue_fsel (op : Nat) : (s.issue op).fsel = s.fsel := rfl
@[simp] theorem State.issue_start (op : Nat) : (s.issue op).start = s.start := rfl
@[simp] theorem State.issue_count (op : Nat) : (s.issue op).count = s.count := rfl
@[simp] theorem State.issue_ilen (op : Nat) : (s.issue op).ilen = s.ilen := rfl
@[simp] theorem State.issue_olen (op : Nat) : (s.issue op).olen = s.olen := rfl
@[simp] theorem State.issue_rstat (op : Nat) : (s.issue op).rstat = s.rstat := rfl
@[simp] theorem State.issue_rstart (op : Nat) : (s.issue op).rstart = s.rstart := rfl
@[simp] theorem State.issue_rcount (op : Nat) : (s.issue op).rcount = s.rcount := rfl
@[simp] theorem State.issue_nval (op : Nat) : (s.issue op).nval = s.nval := rfl
@[simp] theorem State.issue_rlen (op : Nat) : (s.issue op).rlen = s.rlen := rfl
@[simp] theorem State.issue_bser (op : Nat) : (s.issue op).bser = s.bser := rfl
@[simp] theorem State.issue_dser (op : Nat) : (s.issue op).dser = s.dser := rfl
@[simp] theorem State.issue_rbser (op : Nat) : (s.issue op).rbser = s.rbser := rfl
@[simp] theorem State.issue_rdser (op : Nat) : (s.issue op).rdser = s.rdser := rfl
@[simp] theorem State.issue_serout (op : Nat) : (s.issue op).serout = s.serout := rfl
@[simp] theorem State.issue_wval (op : Nat) : (s.issue op).wval = s.wval := rfl
@[simp] theorem State.issue_rval (op : Nat) : (s.issue op).rval = s.rval := rfl
@[simp] theorem State.issue_ibuf (op : Nat) : (s.issue op).ibuf = s.ibuf := rfl
@[simp] theorem State.issue_obuf (op : Nat) : (s.issue op).obuf = s.obuf := rfl
@[simp] theorem State.issue_pending (op : Nat) : (s.issue op).pending = .write cmdOffset op :: s.pending := rfl
@[simp] theorem State.issue_reply (op : Nat) : (s.issue op).reply = s.reply := rfl
@[simp] theorem State.issue_draws (op : Nat) : (s.issue op).draws = s.draws := rfl

end Sys2Proof.Machine
end

