-- ==== Sys2Proof/Laws/Exec.lean ====
section
/-! SUPPORT. What each shared operation, each meaning and the step can do, said once. -/

namespace Sys2Proof.Machine

/-- `complete` answers one next state: CERR <- 0. -/
theorem complete_next {s t : State} (h : complete s = .next t) : t = s.setCerr .ok := by
  cases h; rfl

/-- `failWith` answers one next state: CERR <- the code. -/
theorem failWith_next {e : CErr} {s t : State} (h : failWith e s = .next t) : t = s.setCerr e := by
  cases h; rfl

/-- `emitFrame` answers one next state: OBUF and OLEN hold the frame, CERR <- 0. -/
theorem emitFrame_next {f : List Byte} {s t : State} (h : emitFrame f s = .next t) :
    t = (s.putFrame f).setCerr .ok := by
  cases h; rfl

/-- `rejectFrame` answers one next state: OLEN <- 0, OBUF unspecified, CERR <- 2. -/
theorem rejectFrame_next {s t : State} (h : rejectFrame s = .next t) :
    t = (s.putFrame []).setCerr .operandRange := by
  cases h; rfl

/-- `report` answers one next state: all decode results, CERR <- 0. -/
theorem report_next {d : Decoded} {s t : State} (h : report d s = .next t) : t = (s.latch d).setCerr .ok := by
  cases h; rfl

/-- `finishBitField` answers one next state: BFQ written and CERR <- 0, or BFQ kept and CERR <- 2. -/
theorem finishBitField_next {q : Option U16} {s t : State} (h : finishBitField q s = .next t) :
    (∃ v, q = some v ∧ t = (s.setBfq v).setCerr .ok) ∨ (q = none ∧ t = s.setCerr .operandRange) := by
  cases q with
  | some v => exact .inl ⟨v, rfl, complete_next h⟩
  | none => exact .inr ⟨rfl, failWith_next h⟩

/-- `ifEncodable` answers a next state only for a well-formed row. -/
theorem ifEncodable_next {i : Instr} {s t : State} {r : Result} (h : ifEncodable i s r = .next t) :
    i.wf s.serialMode = true ∧ r = .next t := by
  unfold ifEncodable at h
  split at h
  · exact ⟨‹_›, h⟩
  · cases h

@[simp] theorem ifEncodable_of_wf {i : Instr} {s : State} {r : Result} (h : i.wf s.serialMode = true) :
    ifEncodable i s r = r := by simp [ifEncodable, h]

/-- What an instruction can do, said once: it writes CERR alone, or one of CRCACC, BFQ, ADDR, or a frame, or the decode
results, with CERR. -/
theorem exec_effect {i : Instr} {s t : State} (h : exec i s = .next t) :
    (∃ e, t = s.setCerr e) ∨ (∃ v, t = (s.setCrcacc v).setCerr .ok) ∨ (∃ v, t = (s.setBfq v).setCerr .ok) ∨
      (∃ v, t = (s.setAddr v).setCerr .ok) ∨ (∃ f e, t = (s.putFrame f).setCerr e) ∨
      (∃ d, t = (s.latch d).setCerr .ok) := by
  cases i
  case nop => exact .inl ⟨_, complete_next h⟩
  case crcInit => exact .inr (.inl ⟨_, complete_next h⟩)
  case crcByte => exact .inr (.inl ⟨_, complete_next h⟩)
  case crcBuf => exact .inr (.inl ⟨_, complete_next h⟩)
  case bfGet =>
    rcases finishBitField_next h with ⟨v, -, rfl⟩ | ⟨-, rfl⟩
    · exact .inr (.inr (.inl ⟨v, rfl⟩))
    · exact .inl ⟨_, rfl⟩
  case bfSet =>
    rcases finishBitField_next h with ⟨v, -, rfl⟩ | ⟨-, rfl⟩
    · exact .inr (.inr (.inl ⟨v, rfl⟩))
    · exact .inl ⟨_, rfl⟩
  case stdAddr => exact .inr (.inr (.inr (.inl ⟨_, complete_next h⟩)))
  case stdWrn | lxpWrn =>
    simp only [exec, execStdWrn, execLxpWrn] at h
    split at h
    · exact .inr (.inr (.inr (.inr (.inl ⟨_, _, emitFrame_next h⟩))))
    · exact .inr (.inr (.inr (.inr (.inl ⟨_, _, rejectFrame_next h⟩))))
  case stdRd | stdWr1 | lxpRd | lxpWr1 | stdReqRd3 | stdReqRd4 | stdReqWr1 =>
    exact .inr (.inr (.inr (.inr (.inl ⟨_, _, emitFrame_next h⟩))))
  case stdDec | lxpDec => exact .inr (.inr (.inr (.inr (.inr ⟨_, report_next h⟩))))
  case stdReqWrn | lxpReqRd3 | lxpReqRd4 | lxpReqWr1 | lxpReqWrn =>
    exact .inr (.inr (.inr (.inr (.inl ⟨_, _, emitFrame_next (ifEncodable_next h).2⟩))))
  case stdRspExc | stdRspRd3 | stdRspRd4 | stdRspWr1 | stdRspWrn | lxpRspExc | lxpRspRd3 | lxpRspRd4 | lxpRspWr1 |
      lxpRspWrn =>
    exact .inr (.inr (.inr (.inr (.inr ⟨_, report_next (ifEncodable_next h).2⟩))))

/-- A CMD write runs the command its low byte selects, or is an illegal command (R81, R291). -/
theorem runCommand_cases (v : Nat) (s : State) :
    (∃ i, commandOf (BitVec.ofNat 8 v) = .ok i ∧ runCommand v s = exec i s) ∨
      (∃ e, commandOf (BitVec.ofNat 8 v) = .error e ∧ runCommand v s = .next (s.setCerr .illegalCommand)) := by
  unfold runCommand
  simp only [decode, decodeCommand]
  cases h : commandOf (BitVec.ofNat 8 v) with
  | ok i => exact .inl ⟨i, rfl, rfl⟩
  | error e => exact .inr ⟨e, rfl, rfl⟩

/-- What one step can do, said once. -/
theorem step_cases {s t : State} (h : step s = .next t) :
    (s.pending = [] ∧ t = s) ∨
    (∃ rest, s.pending = .reset :: rest ∧ t = (s.arrive rest).onReset) ∨
    (∃ off loc rest, s.pending = .read off :: rest ∧ locate off = some loc ∧
      t = (s.arrive rest).answer (hostRead (s.arrive rest) loc)) ∨
    (∃ off v loc rest, s.pending = .write off v :: rest ∧ locate off = some loc ∧ loc ≠ .cmd ∧
      t = hostStore (s.arrive rest) v loc) ∨
    (∃ off v rest, s.pending = .write off v :: rest ∧ locate off = some .cmd ∧
      runCommand v (s.arrive rest) = .next t) := by
  unfold step at h
  split at h
  · next hp => cases h; exact .inl ⟨hp, rfl⟩
  · next e rest hp =>
    cases e with
    | reset => cases h; exact .inr (.inl ⟨rest, hp, rfl⟩)
    | read off =>
      simp only [access, withLoc] at h
      split at h
      · cases h
      · split at h
        · next loc hl => cases h; exact .inr (.inr (.inl ⟨off, loc, rest, hp, hl, rfl⟩))
        · cases h
    | write off v =>
      simp only [access, withLoc] at h
      split at h
      · cases h
      · split at h
        · next loc hl =>
          by_cases hc : loc = .cmd
          · subst hc
            exact .inr (.inr (.inr (.inr ⟨off, v, rest, hp, hl, h⟩)))
          · refine .inr (.inr (.inr (.inl ⟨off, v, loc, rest, hp, hl, hc, ?_⟩)))
            cases loc <;> first | exact absurd rfl hc | (cases h; rfl)
        · cases h

end Sys2Proof.Machine
end

