-- ==== Sys2Proof/Laws/PerInstr.lean ====
section
/-! SUPPORT. Statements for all instructions, made one instruction at a time. -/

namespace Sys2Proof.Laws

/-- An encoding has at least one byte and fits the block's buffers (R11, R100, R105 to R109). -/
def EncodedLength.Statement (i : Instr) : Prop :=
  ∀ m : SerialMode, i.wf m = true → 1 ≤ (encode i).length ∧ (encode i).length ≤ Config.bufSize

/-- A one-byte command fits. -/
theorem EncodedLength.of_one {i : Instr} (h : (encode i).length = 1) : EncodedLength.Statement i := by
  intro _ _
  rw [h]
  decide

/-- A closed frame fits when its body leaves room for the trailer. -/
theorem EncodedLength.of_close {i : Instr} {b : List Byte} (h : encode i = closeFrame b)
    (hb : ∀ m : SerialMode, i.wf m = true → b.length ≤ 510) : EncodedLength.Statement i := by
  intro m hm
  rw [h, closeFrame_length, Config.bufSize]
  have := hb m hm
  omega

theorem length_of_countFits {vs : List U16} (h : countFits vs = true) : vs.length ≤ 127 := of_decide_eq_true h

theorem of_frameFits {n : Nat} (h : frameFits n = true) : n ≤ 512 := of_decide_eq_true h

/-- The serial fields of a header are at most twenty bytes (R107). -/
theorem headerSerialBytes_le (ser : HeaderSerials) : (headerSerialBytes ser).length ≤ 20 := by
  cases ser <;> simp [headerSerialBytes]

/-- The values of a write-multiple request take two bytes each. -/
theorem flatMap_putBe16_length (vs : List U16) : (vs.flatMap putBe16).length = 2 * vs.length :=
  flatMap_put16_length .std vs

theorem flatMap_putLe16_length (vs : List U16) : (vs.flatMap putLe16).length = 2 * vs.length :=
  flatMap_put16_length (.lxp .both) vs

theorem EncodedLength.nop : EncodedLength.Statement .nop := EncodedLength.of_one rfl
theorem EncodedLength.crcInit : EncodedLength.Statement .crcInit := EncodedLength.of_one rfl
theorem EncodedLength.crcByte : EncodedLength.Statement .crcByte := EncodedLength.of_one rfl
theorem EncodedLength.crcBuf : EncodedLength.Statement .crcBuf := EncodedLength.of_one rfl
theorem EncodedLength.bfGet : EncodedLength.Statement .bfGet := EncodedLength.of_one rfl
theorem EncodedLength.bfSet : EncodedLength.Statement .bfSet := EncodedLength.of_one rfl
theorem EncodedLength.stdAddr : EncodedLength.Statement .stdAddr := EncodedLength.of_one rfl
theorem EncodedLength.stdRd : EncodedLength.Statement .stdRd := EncodedLength.of_one rfl
theorem EncodedLength.stdWr1 : EncodedLength.Statement .stdWr1 := EncodedLength.of_one rfl
theorem EncodedLength.stdWrn : EncodedLength.Statement .stdWrn := EncodedLength.of_one rfl
theorem EncodedLength.stdDec : EncodedLength.Statement .stdDec := EncodedLength.of_one rfl
theorem EncodedLength.lxpRd : EncodedLength.Statement .lxpRd := EncodedLength.of_one rfl
theorem EncodedLength.lxpWr1 : EncodedLength.Statement .lxpWr1 := EncodedLength.of_one rfl
theorem EncodedLength.lxpWrn : EncodedLength.Statement .lxpWrn := EncodedLength.of_one rfl
theorem EncodedLength.lxpDec : EncodedLength.Statement .lxpDec := EncodedLength.of_one rfl

theorem EncodedLength.stdReqRd3 (a : Byte) (x y : U16) : EncodedLength.Statement (.stdReqRd3 a x y) :=
  EncodedLength.of_close rfl (by simp)

theorem EncodedLength.stdReqRd4 (a : Byte) (x y : U16) : EncodedLength.Statement (.stdReqRd4 a x y) :=
  EncodedLength.of_close rfl (by simp)

theorem EncodedLength.stdReqWr1 (a : Byte) (x y : U16) : EncodedLength.Statement (.stdReqWr1 a x y) :=
  EncodedLength.of_close rfl (by simp)

theorem EncodedLength.stdReqWrn (a : Byte) (x : U16) (vs : List U16) :
    EncodedLength.Statement (.stdReqWrn a x vs) :=
  EncodedLength.of_close rfl (by
    intro m h
    have := length_of_countFits h
    simp [-List.length_flatMap, flatMap_putBe16_length]
    omega)

theorem EncodedLength.stdRspExc (a : Byte) (f : BitVec 7) (c : Byte) (extra : List Byte) :
    EncodedLength.Statement (.stdRspExc a f c extra) :=
  EncodedLength.of_close rfl (by
    intro m h
    have := of_frameFits h
    simp
    omega)

theorem EncodedLength.stdRspRd3 (a : Byte) (data extra : List Byte) :
    EncodedLength.Statement (.stdRspRd3 a data extra) :=
  EncodedLength.of_close rfl (by
    intro m h
    simp only [Instr.wf, Bool.and_eq_true] at h
    have := of_frameFits h.2
    simp
    omega)

theorem EncodedLength.stdRspRd4 (a : Byte) (data extra : List Byte) :
    EncodedLength.Statement (.stdRspRd4 a data extra) :=
  EncodedLength.of_close rfl (by
    intro m h
    simp only [Instr.wf, Bool.and_eq_true] at h
    have := of_frameFits h.2
    simp
    omega)

theorem EncodedLength.stdRspWr1 (a : Byte) (x y : U16) (extra : List Byte) :
    EncodedLength.Statement (.stdRspWr1 a x y extra) :=
  EncodedLength.of_close rfl (by
    intro m h
    have := of_frameFits h
    simp
    omega)

theorem EncodedLength.stdRspWrn (a : Byte) (x y : U16) (extra : List Byte) :
    EncodedLength.Statement (.stdRspWrn a x y extra) :=
  EncodedLength.of_close rfl (by
    intro m h
    have := of_frameFits h
    simp
    omega)

theorem EncodedLength.lxpReqRd3 (a : Byte) (ser : HeaderSerials) (x y : U16) :
    EncodedLength.Statement (.lxpReqRd3 a ser x y) :=
  EncodedLength.of_close rfl (by
    intro m _
    have := headerSerialBytes_le ser
    simp
    omega)

theorem EncodedLength.lxpReqRd4 (a : Byte) (ser : HeaderSerials) (x y : U16) :
    EncodedLength.Statement (.lxpReqRd4 a ser x y) :=
  EncodedLength.of_close rfl (by
    intro m _
    have := headerSerialBytes_le ser
    simp
    omega)

theorem EncodedLength.lxpReqWr1 (a : Byte) (ser : HeaderSerials) (x y : U16) :
    EncodedLength.Statement (.lxpReqWr1 a ser x y) :=
  EncodedLength.of_close rfl (by
    intro m _
    have := headerSerialBytes_le ser
    simp
    omega)

theorem EncodedLength.lxpReqWrn (a : Byte) (ser : HeaderSerials) (x : U16) (vs : List U16) :
    EncodedLength.Statement (.lxpReqWrn a ser x vs) :=
  EncodedLength.of_close rfl (by
    intro m h
    have := headerSerialBytes_le ser
    simp only [Instr.wf, Bool.and_eq_true] at h
    have := length_of_countFits h.2
    simp [-List.length_flatMap, flatMap_putLe16_length]
    omega)

theorem EncodedLength.lxpRspExc (a : Byte) (f : BitVec 7) (ser : HeaderSerials) (c : Byte) (extra : List Byte) :
    EncodedLength.Statement (.lxpRspExc a f ser c extra) :=
  EncodedLength.of_close rfl (by
    intro m h
    simp only [Instr.wf, Bool.and_eq_true] at h
    have := of_frameFits h.2
    have := headerSerialBytes_length h.1
    simp
    omega)

theorem EncodedLength.lxpRspRd3 (a : Byte) (ser : HeaderSerials) (data extra : List Byte) :
    EncodedLength.Statement (.lxpRspRd3 a ser data extra) :=
  EncodedLength.of_close rfl (by
    intro m h
    simp only [Instr.wf, Bool.and_eq_true] at h
    have := of_frameFits h.2
    have := headerSerialBytes_length h.1.1
    simp
    omega)

theorem EncodedLength.lxpRspRd4 (a : Byte) (ser : HeaderSerials) (data extra : List Byte) :
    EncodedLength.Statement (.lxpRspRd4 a ser data extra) :=
  EncodedLength.of_close rfl (by
    intro m h
    simp only [Instr.wf, Bool.and_eq_true] at h
    have := of_frameFits h.2
    have := headerSerialBytes_length h.1.1
    simp
    omega)

theorem EncodedLength.lxpRspWr1 (a : Byte) (ser : HeaderSerials) (x y : U16) (extra : List Byte) :
    EncodedLength.Statement (.lxpRspWr1 a ser x y extra) :=
  EncodedLength.of_close rfl (by
    intro m h
    simp only [Instr.wf, Bool.and_eq_true] at h
    have := of_frameFits h.2
    have := headerSerialBytes_length h.1
    simp
    omega)

theorem EncodedLength.lxpRspWrn (a : Byte) (ser : HeaderSerials) (x y : U16) (extra : List Byte) :
    EncodedLength.Statement (.lxpRspWrn a ser x y extra) :=
  EncodedLength.of_close rfl (by
    intro m h
    simp only [Instr.wf, Bool.and_eq_true] at h
    have := of_frameFits h.2
    have := headerSerialBytes_length h.1
    simp
    omega)

end Sys2Proof.Laws
end

