-- ==== Sys2Proof/Laws/Response.lean ====
section
/-! SUPPORT. Laws of the status word and of the response decoder. -/

namespace Sys2Proof.Machine

section Rstat

variable (d : Diag) (serValid : Bool) (func : BitVec 7) (excf : Bool) (exc addr : Byte)

/-- The bits of RSTAT, field by field from bit 0 up (R45). -/
theorem packRstat_getLsbD (i : Nat) :
    (packRstat d serValid func excf exc addr).getLsbD i =
      if i < 2 then (kindCode (diagKind d)).getLsbD i
      else if i < 3 then diagNeedMore d && decide (i = 2)
      else if i < 4 then serValid && decide (i = 3)
      else if i < 8 then (diagCode d).getLsbD (i - 4)
      else if i < 15 then func.getLsbD (i - 8)
      else if i < 16 then excf && decide (i = 15)
      else if i < 24 then exc.getLsbD (i - 16)
      else addr.getLsbD (i - 24) := by
  show BitVec.getLsbD (w := 8 + 8 + 1 + 7 + 4 + 1 + 1 + 2) (addr ++ exc ++ BitVec.ofBool excf ++ func ++ diagCode d ++
    BitVec.ofBool serValid ++ BitVec.ofBool (diagNeedMore d) ++ kindCode (diagKind d)) i = _
  simp only [BitVec.getLsbD_append, BitVec.getLsbD_ofBool]
  split_ifs <;> first
    | omega
    | rfl
    | (congr 1; omega)
    | (simp only [Bool.and_comm]; congr 2; simp only [eq_iff_iff]; omega)

@[simp] theorem rstatKind_packRstat : rstatKind (packRstat d serValid func excf exc addr) = kindCode (diagKind d) := by
  apply BitVec.eq_of_getLsbD_eq
  intro i hi
  rw [rstatKind, BitVec.getLsbD_extractLsb', packRstat_getLsbD, decide_eq_true hi, Bool.true_and]
  split_ifs <;> first | omega | (congr 1; omega)

@[simp] theorem rstatNeedMore_packRstat : rstatNeedMore (packRstat d serValid func excf exc addr) = diagNeedMore d := by
  rw [rstatNeedMore, packRstat_getLsbD]
  simp

@[simp] theorem rstatSerValid_packRstat : rstatSerValid (packRstat d serValid func excf exc addr) = serValid := by
  rw [rstatSerValid, packRstat_getLsbD]
  simp

@[simp] theorem rstatDiag_packRstat : rstatDiag (packRstat d serValid func excf exc addr) = diagCode d := by
  apply BitVec.eq_of_getLsbD_eq
  intro i hi
  rw [rstatDiag, BitVec.getLsbD_extractLsb', packRstat_getLsbD, decide_eq_true hi, Bool.true_and]
  split_ifs <;> first | omega | (congr 1; omega)

@[simp] theorem rstatFunc_packRstat : rstatFunc (packRstat d serValid func excf exc addr) = func := by
  apply BitVec.eq_of_getLsbD_eq
  intro i hi
  rw [rstatFunc, BitVec.getLsbD_extractLsb', packRstat_getLsbD, decide_eq_true hi, Bool.true_and]
  split_ifs <;> first | omega | (congr 1; omega)

@[simp] theorem rstatExcf_packRstat : rstatExcf (packRstat d serValid func excf exc addr) = excf := by
  rw [rstatExcf, packRstat_getLsbD]
  simp

@[simp] theorem rstatExc_packRstat : rstatExc (packRstat d serValid func excf exc addr) = exc := by
  apply BitVec.eq_of_getLsbD_eq
  intro i hi
  rw [rstatExc, BitVec.getLsbD_extractLsb', packRstat_getLsbD, decide_eq_true hi, Bool.true_and]
  split_ifs <;> first | omega | (congr 1; omega)

@[simp] theorem rstatAddr_packRstat : rstatAddr (packRstat d serValid func excf exc addr) = addr := by
  apply BitVec.eq_of_getLsbD_eq
  intro i hi
  rw [rstatAddr, BitVec.getLsbD_extractLsb', packRstat_getLsbD, decide_eq_true hi, Bool.true_and]
  split_ifs <;> first | omega | (congr 1; omega)

end Rstat

/-- KIND names the kind it was made from (R45). -/
@[simp] theorem kindOfCode_kindCode (k : Kind) : kindOfCode (kindCode k) = k := by cases k <;> rfl

@[simp] theorem diagOfCode_diagCode (d : Diag) : diagOfCode (diagCode d) = some d := by cases d <;> rfl

theorem diagCode_injective {d e : Diag} (h : diagCode d = diagCode e) : d = e := by
  cases d <;> cases e <;> first | rfl | exact absurd h (by decide)

theorem kindCode_injective {j k : Kind} (h : kindCode j = kindCode k) : j = k := by
  cases j <;> cases k <;> first | rfl | exact absurd h (by decide)

/-- Bits 6:0 of the function byte as a number (R191). -/
theorem func_toNat (b : Byte) : (b.extractLsb' 0 7).toNat = b.toNat % 128 := by
  simp [BitVec.extractLsb'_toNat]

/-- What a read response decodes to: the declared length does not fit, or the values, with the serial where the framing
reports one (R194, R233). -/
theorem decodeRead_cases (fr : Framing) (buf : List Byte) :
    (buf.length < headerLength fr + 1 + (byteAt buf (headerLength fr)).toNat + 2 ∧
      decodeRead fr buf = { headerOf fr buf .lengthExceedsBuffer with rlen := byteAt buf (headerLength fr) }) ∨
    (headerLength fr + 1 + (byteAt buf (headerLength fr)).toNat + 2 ≤ buf.length ∧
      ∃ d, decodeRead fr buf = d ∧ d.diag = .none ∧ d.addr = (headerOf fr buf .none).addr ∧
        d.func = (headerOf fr buf .none).func ∧ d.excf = (headerOf fr buf .none).excf ∧ d.exc = 0 ∧
        d.rbser = (headerOf fr buf .none).rbser ∧ d.rdser = (headerOf fr buf .none).rdser ∧
        d.rstart = 0 ∧ d.rcount = 0 ∧ d.rlen = byteAt buf (headerLength fr) ∧
        d.values = (List.range ((byteAt buf (headerLength fr)).toNat / 2)).map
          (fun i => get16 fr buf (headerLength fr + 1 + 2 * i)) ∧
        d.serValid = reportsSerial fr (byteAt buf (headerLength fr)).toNat ∧
        d.serout = if reportsSerial fr (byteAt buf (headerLength fr)).toNat then
            serialOf ((slice buf (headerLength fr + 1) (headerLength fr + 11)).map sanitize)
          else zeroSerial) := by
  by_cases h : headerLength fr + 1 + (byteAt buf (headerLength fr)).toNat + 2 > buf.length
  · refine .inl ⟨h, ?_⟩
    simp [decodeRead, h]
  · refine .inr ⟨by omega, _, rfl, ?_⟩
    cases hs : reportsSerial fr (byteAt buf (headerLength fr)).toNat <;> simp [decodeRead, h, hs, headerOf]

/-- What a write echo decodes to: too short, or the two fields (R195, R196, R234, R235). -/
theorem decodeEcho_cases (fr : Framing) (buf : List Byte) :
    (buf.length < headerLength fr + 6 ∧ decodeEcho fr buf = headerOf fr buf .echoTooShort) ∨
    (headerLength fr + 6 ≤ buf.length ∧ decodeEcho fr buf = { headerOf fr buf .none with
      rstart := get16 fr buf (headerLength fr), rcount := get16 fr buf (headerLength fr + 2) }) := by
  by_cases h : buf.length < headerLength fr + 6
  · exact .inl ⟨h, by simp [decodeEcho, h]⟩
  · exact .inr ⟨by omega, by simp [decodeEcho, h]⟩

/-- What a buffer decodes to: its length, then its checksum, then its exception flag, then its function code decide
(R263). -/
theorem decodeResponse_cases (fr : Framing) (buf : List Byte) :
    (buf.length < headerLength fr + 3 ∧ decodeResponse fr buf = { diag := .tooShort }) ∨
    (headerLength fr + 3 ≤ buf.length ∧ crcOk buf = false ∧
      decodeResponse fr buf = headerOf fr buf .crcMismatch) ∨
    (headerLength fr + 3 ≤ buf.length ∧ crcOk buf = true ∧ (byteAt buf 1).getLsbD 7 = true ∧
      decodeResponse fr buf = { headerOf fr buf .exceptionResponse with exc := byteAt buf (headerLength fr) }) ∨
    (headerLength fr + 3 ≤ buf.length ∧ crcOk buf = true ∧ (byteAt buf 1).getLsbD 7 = false ∧
      ((byteAt buf 1).toNat % 128 = 3 ∨ (byteAt buf 1).toNat % 128 = 4) ∧
      decodeResponse fr buf = decodeRead fr buf) ∨
    (headerLength fr + 3 ≤ buf.length ∧ crcOk buf = true ∧ (byteAt buf 1).getLsbD 7 = false ∧
      ((byteAt buf 1).toNat % 128 = 6 ∨ (byteAt buf 1).toNat % 128 = 16) ∧
      decodeResponse fr buf = decodeEcho fr buf) ∨
    (headerLength fr + 3 ≤ buf.length ∧ crcOk buf = true ∧ (byteAt buf 1).getLsbD 7 = false ∧
      (byteAt buf 1).toNat % 128 ≠ 3 ∧ (byteAt buf 1).toNat % 128 ≠ 4 ∧ (byteAt buf 1).toNat % 128 ≠ 6 ∧
      (byteAt buf 1).toNat % 128 ≠ 16 ∧ decodeResponse fr buf = headerOf fr buf .unsupportedFunction) := by
  by_cases hl : buf.length < headerLength fr + 3
  · exact .inl ⟨hl, by simp only [decodeResponse, hl, if_true]⟩
  have hl' : headerLength fr + 3 ≤ buf.length := by omega
  cases hc : crcOk buf
  · refine .inr (.inl ⟨hl', rfl, ?_⟩)
    simp [decodeResponse, hl, hc]
  cases hf : (byteAt buf 1).getLsbD 7
  · have e : decodeResponse fr buf = (match (byteAt buf 1).toNat % 128 with
        | 3 => decodeRead fr buf
        | 4 => decodeRead fr buf
        | 6 => decodeEcho fr buf
        | 16 => decodeEcho fr buf
        | _ => headerOf fr buf .unsupportedFunction) := by
      rw [← func_toNat, decodeResponse, if_neg hl, hc, hf]
      rfl
    rw [e]
    split
    · next h => exact .inr (.inr (.inr (.inl ⟨hl', rfl, rfl, .inl h, rfl⟩)))
    · next h => exact .inr (.inr (.inr (.inl ⟨hl', rfl, rfl, .inr h, rfl⟩)))
    · next h => exact .inr (.inr (.inr (.inr (.inl ⟨hl', rfl, rfl, .inl h, rfl⟩))))
    · next h => exact .inr (.inr (.inr (.inr (.inl ⟨hl', rfl, rfl, .inr h, rfl⟩))))
    · next h3 h4 h6 h16 => exact .inr (.inr (.inr (.inr (.inr ⟨hl', rfl, rfl, h3, h4, h6, h16, rfl⟩))))
  · refine .inr (.inr (.inl ⟨hl', rfl, rfl, ?_⟩))
    simp [decodeResponse, hl, hc, hf]

end Sys2Proof.Machine
end

