-- ==== Sys2Proof/Tests/Slice0.lean ====
section
/-! SUPPORT. Tests of the model. Expected values are the spec's own (95_test_vectors.md and the worked examples of the
command rules) unless a comment says otherwise. First the checks of WellFormed, then every row's bytes, then single
steps, then for every obligation with hypotheses a state and operands that meet them. -/

set_option Elab.async false

namespace Sys2Proof.Tests

open Sys2Proof Sys2Proof.Machine

/-! ### Helpers -/

/-- The serials of the spec's vectors: "BA12345678", "1234567890" and the sentinel. -/
def serB : Serial := ⟨0x42, 0x41, 0x31, 0x32, 0x33, 0x34, 0x35, 0x36, 0x37, 0x38⟩
def serD : Serial := ⟨0x31, 0x32, 0x33, 0x34, 0x35, 0x36, 0x37, 0x38, 0x39, 0x30⟩

/-- The state of a next outcome. -/
def after (r : Result) : State :=
  match r with
  | .next t => t
  | _ => State.reset

/-- The operands of the spec's encoder vectors. -/
def operands : State :=
  { State.reset with
    fsel := 1, start := 7, count := 2, bser := serB, dser := serD, wval := [(0, 0x000A), (1, 0x0102)] }

/-- OBUF[0:OLEN] after an outcome. -/
def sent (r : Result) : List Byte := (after r).output

/-- A reset state with a byte sequence in IBUF. -/
def loaded (buf : List Byte) : State := State.reset.loadInput buf

/-- A reset state under another strap. -/
def strapped (m : SerialMode) : State := { State.reset with serialMode := m }

/-! ### WellFormed refuses an ill-formed term, check by check -/

theorem test_wf_refuses_wrong_serials : (Instr.lxpReqRd3 1 (.device serD) 0 5).wf .both = false := by decide
theorem test_wf_refuses_128_values : (Instr.stdReqWrn 1 0 (List.replicate 128 0)).wf .both = false := by
  decide +kernel
theorem test_wf_refuses_256_data_bytes : (Instr.stdRspRd3 1 (List.replicate 256 0) []).wf .both = false := by
  decide +kernel
theorem test_wf_refuses_513_bytes : (Instr.stdRspExc 1 4 2 (List.replicate 508 0)).wf .both = false := by
  decide +kernel
theorem test_wf_accepts_512_bytes : (Instr.stdRspExc 1 4 2 (List.replicate 507 0)).wf .both = true := by
  decide +kernel

/-! ### Every row's bytes -/

theorem test_decode_commands :
    decode .both .cmd [0x00] = .ok .nop ∧ decode .both .cmd [0x01] = .ok .crcInit ∧
    decode .both .cmd [0x02] = .ok .crcByte ∧ decode .both .cmd [0x03] = .ok .crcBuf ∧
    decode .both .cmd [0x08] = .ok .bfGet ∧ decode .both .cmd [0x09] = .ok .bfSet ∧
    decode .both .cmd [0x10] = .ok .stdAddr ∧ decode .both .cmd [0x11] = .ok .stdRd ∧
    decode .both .cmd [0x12] = .ok .stdWr1 ∧ decode .both .cmd [0x13] = .ok .stdWrn ∧
    decode .both .cmd [0x14] = .ok .stdDec ∧ decode .both .cmd [0x21] = .ok .lxpRd ∧
    decode .both .cmd [0x22] = .ok .lxpWr1 ∧ decode .both .cmd [0x23] = .ok .lxpWrn ∧
    decode .both .cmd [0x24] = .ok .lxpDec := by decide +kernel

theorem test_decode_stdReqRd3 :
    decode .both .stdReq [0x11, 0x03, 0x00, 0x6B, 0x00, 0x03, 0x76, 0x87] = .ok (.stdReqRd3 0x11 0x6B 3) := by
  decide +kernel
theorem test_decode_stdReqRd4 :
    decode .both .stdReq [0x01, 0x04, 0x00, 0x07, 0x00, 0x02, 0xC0, 0x0A] = .ok (.stdReqRd4 1 7 2) := by
  decide +kernel
theorem test_decode_stdReqWr1 :
    decode .both .stdReq [0x01, 0x06, 0x00, 0x15, 0x12, 0x34, 0x95, 0x79] = .ok (.stdReqWr1 1 0x15 0x1234) := by
  decide +kernel
theorem test_decode_stdReqWrn :
    decode .both .stdReq [0x02, 0x10, 0x00, 0x10, 0x00, 0x01, 0x02, 0xFF, 0xFF, 0xB1, 0x80] =
      .ok (.stdReqWrn 2 0x10 [0xFFFF]) := by
  decide +kernel
theorem test_decode_stdRspExc :
    decode .both .stdRsp [0x01, 0x84, 0x02, 0xAA, 0xBB, 0xAE, 0x23] = .ok (.stdRspExc 1 4 2 [0xAA, 0xBB]) := by
  decide +kernel
theorem test_decode_stdRspRd3 :
    decode .both .stdRsp [0x01, 0x03, 0x02, 0x12, 0x34, 0x56, 0x78, 0x09, 0x07] =
      .ok (.stdRspRd3 1 [0x12, 0x34] [0x56, 0x78]) := by
  decide +kernel
theorem test_decode_stdRspRd4 :
    decode .both .stdRsp [0x01, 0x04, 0x04, 0x00, 0x7B, 0x01, 0xC8, 0x8B, 0x9B] =
      .ok (.stdRspRd4 1 [0x00, 0x7B, 0x01, 0xC8] []) := by
  decide +kernel
theorem test_decode_stdRspWr1 :
    decode .both .stdRsp [0x01, 0x06, 0x00, 0x15, 0x12, 0x34, 0x95, 0x79] = .ok (.stdRspWr1 1 0x15 0x1234 []) := by
  decide +kernel
theorem test_decode_stdRspWrn :
    decode .both .stdRsp [0x01, 0x10, 0x00, 0x40, 0x00, 0x02, 0x40, 0x1C] = .ok (.stdRspWrn 1 0x40 2 []) := by
  decide +kernel
theorem test_decode_lxpReqRd3 :
    decode .deviceOnly .lxpReq [0x01, 0x03, 0x30, 0x30, 0x30, 0x30, 0x30, 0x30, 0x30, 0x30, 0x30, 0x30,
      0x00, 0x00, 0x05, 0x00, 0xD3, 0xAC] = .ok (.lxpReqRd3 1 (.device sentinelSerial) 0 5) := by
  decide +kernel
theorem test_decode_lxpReqRd4 :
    decode .both .lxpReq [0x01, 0x04, 0x42, 0x41, 0x31, 0x32, 0x33, 0x34, 0x35, 0x36, 0x37, 0x38,
      0x31, 0x32, 0x33, 0x34, 0x35, 0x36, 0x37, 0x38, 0x39, 0x30, 0x07, 0x00, 0x02, 0x00, 0x78, 0x7E] =
      .ok (.lxpReqRd4 1 (.both serB serD) 7 2) := by
  decide +kernel
theorem test_decode_lxpReqWr1 :
    decode .bridgeOnly .lxpReq [0x01, 0x06, 0x42, 0x41, 0x31, 0x32, 0x33, 0x34, 0x35, 0x36, 0x37, 0x38,
      0x15, 0x00, 0x34, 0x12, 0x3A, 0x00] = .ok (.lxpReqWr1 1 (.bridge serB) 0x15 0x1234) := by
  decide +kernel
theorem test_decode_lxpReqWrn :
    decode .deviceOnly .lxpReq [0x01, 0x10, 0x31, 0x32, 0x33, 0x34, 0x35, 0x36, 0x37, 0x38, 0x39, 0x30,
      0x40, 0x00, 0x02, 0x00, 0x04, 0x0A, 0x00, 0x02, 0x01, 0x3E, 0xEF] =
      .ok (.lxpReqWrn 1 (.device serD) 0x40 [0x000A, 0x0102]) := by
  decide +kernel
theorem test_decode_lxpRspExc :
    decode .deviceOnly .lxpRsp [0x01, 0x84, 0x31, 0x32, 0x33, 0x34, 0x35, 0x36, 0x37, 0x38, 0x39, 0x30,
      0x02, 0x37, 0xF9] = .ok (.lxpRspExc 1 4 (.device serD) 2 []) := by
  decide +kernel
theorem test_decode_lxpRspRd3 :
    decode .bridgeOnly .lxpRsp [0x01, 0x03, 0x42, 0x41, 0x31, 0x32, 0x33, 0x34, 0x35, 0x36, 0x37, 0x38,
      0x09, 0x31, 0x32, 0x33, 0x34, 0x35, 0x36, 0x37, 0x38, 0x39, 0x9C, 0xF8] =
      .ok (.lxpRspRd3 1 (.bridge serB) [0x31, 0x32, 0x33, 0x34, 0x35, 0x36, 0x37, 0x38, 0x39] []) := by
  decide +kernel
theorem test_decode_lxpRspRd4 :
    decode .bridgeOnly .lxpRsp [0x01, 0x04, 0x42, 0x41, 0x31, 0x32, 0x33, 0x34, 0x35, 0x36, 0x37, 0x38,
      0x04, 0x7B, 0x00, 0xC8, 0x01, 0x3E, 0xFB] =
      .ok (.lxpRspRd4 1 (.bridge serB) [0x7B, 0x00, 0xC8, 0x01] []) := by
  decide +kernel
theorem test_decode_lxpRspWr1 :
    decode .deviceOnly .lxpRsp [0x01, 0x06, 0x31, 0x32, 0x33, 0x34, 0x35, 0x36, 0x37, 0x38, 0x39, 0x30,
      0x15, 0x00, 0x34, 0x12, 0x62, 0x86] = .ok (.lxpRspWr1 1 (.device serD) 0x15 0x1234 []) := by
  decide +kernel
theorem test_decode_lxpRspWrn :
    decode .both .lxpRsp [0x01, 0x10, 0x42, 0x41, 0x31, 0x32, 0x33, 0x34, 0x35, 0x36, 0x37, 0x38,
      0x31, 0x32, 0x33, 0x34, 0x35, 0x36, 0x37, 0x38, 0x39, 0x30, 0x40, 0x00, 0x02, 0x00, 0x6D, 0x7A] =
      .ok (.lxpRspWrn 1 (.both serB serD) 0x40 2 []) := by
  decide +kernel

/-- What decoding rejects, by name: a reserved opcode, a wrong trailer, an unknown function code, a request of another
length than its layout, a declared length beyond the buffer. -/
theorem test_decode_rejects :
    decode .both .cmd [0x20] = .error .reservedOpcode ∧ decode .both .cmd [] = .error .notOneByte ∧
    decode .both .stdReq [0x01, 0x04, 0x00, 0x07, 0x00, 0x02, 0xC0, 0x0B] = .error .crcMismatch ∧
    decode .both .stdRsp [0x01, 0x05, 0x00, 0x00, 0x00, 0x19, 0x0C] = .error .unsupportedFunction ∧
    decode .both .stdRsp [0x01, 0x06, 0x00, 0x15, 0x20, 0x16] = .error .tooShort ∧
    decode .both .stdRsp [0x01, 0x04, 0x04, 0x00, 0x7B, 0x19, 0x12] = .error .lengthExceedsBuffer ∧
    decode .both .stdReq [0x01, 0x03, 0x02, 0x12, 0x34, 0x56, 0x78, 0x09, 0x07] = .error .badLength := by
  decide +kernel

/-! ### Table words and the state that fetches one -/

theorem test_table_words :
    decodeTableWord 8 0x14 = some .stdDec ∧ decodeTableWord 8 0x20 = none ∧
    decodeTableWord 16 0x0104 = some (.stdReqRd4 1 0 0) ∧
    decodeTableWord 8 0x84 = some (.stdRspExc 0 4 0 []) := by decide +kernel

theorem test_fetch_runs_the_command :
    step (State.reset.withFetchWord 8 0x11) = exec .stdRd ((State.reset.issue 0x11).arrive []) := by rfl

/-! ### Single steps -/

-- R290: CERR = 2 before, 0 after.
theorem test_nop : (after (exec .nop { State.reset with cstat := 2 })).cstat = 0 := by decide
-- R143 and R144.
theorem test_crcInit : (after (exec .crcInit { State.reset with crcacc := 0x1234 })).crcacc = 0xFFFF := by decide
theorem test_crcByte : (after (exec .crcByte { State.reset with crcin := 1 })).crcacc = 0x807E := by decide +kernel
theorem test_crcByte_any :
    (after (exec .crcByte { State.reset with crcacc := 0x1234, crcin := 0x56 })).crcacc = 0xE993 := by decide +kernel
-- R145, and ILEN = 0.
theorem test_crcBuf : (after (exec .crcBuf (loaded [0x01, 0x04, 0x00, 0x07, 0x00, 0x02]))).crcacc = 0x0AC0 := by
  decide +kernel
theorem test_crcBuf_empty : (after (exec .crcBuf { State.reset with crcacc := 0x1234 })).crcacc = 0xFFFF := by
  decide +kernel
-- R164 and the reject row 248 + 8, where a wrapping sum would accept.
theorem test_bfGet : (after (exec .bfGet { State.reset with bfr := 0x01C8, bfpos := 0x0403 })).bfq = 9 := by
  decide +kernel
theorem test_bfGet_reject :
    let t := after (exec .bfGet { State.reset with bfr := 0xABCD, bfpos := 0x08F8, bfq := 0x5A5A })
    t.cstat = 2 ∧ t.bfq = 0x5A5A := by decide +kernel
-- R165 and the row that clears bit 15 only.
theorem test_bfSet :
    (after (exec .bfSet { State.reset with bfr := 0x01C8, bfpos := 0x0403, bfv := 0xFFF5 })).bfq = 0x01A8 := by
  decide +kernel
theorem test_bfSet_high :
    (after (exec .bfSet { State.reset with bfr := 0xABCD, bfpos := 0x010F, bfv := 0 })).bfq = 0x2BCD := by
  decide +kernel
-- R180, R181.
theorem test_stdAddr : (after (exec .stdAddr (loaded [0x42, 0x41]))).addr = 0x42 := by decide +kernel
theorem test_stdAddr_zero : (after (exec .stdAddr (loaded [0x00, 0x37, 0x38]))).addr = 1 := by decide +kernel
-- R183 and the all-ones row.
theorem test_stdRd : sent (exec .stdRd operands) = [0x01, 0x04, 0x00, 0x07, 0x00, 0x02, 0xC0, 0x0A] := by
  decide +kernel
theorem test_stdRd_holding :
    sent (exec .stdRd { State.reset with addr := 0x11, start := 0x6B, count := 3 }) =
      [0x11, 0x03, 0x00, 0x6B, 0x00, 0x03, 0x76, 0x87] := by decide +kernel
-- R185: the value comes from COUNT.
theorem test_stdWr1 :
    sent (exec .stdWr1 { operands with start := 0x15, count := 0x1234 }) =
      [0x01, 0x06, 0x00, 0x15, 0x12, 0x34, 0x95, 0x79] := by decide +kernel
-- R187: COUNT = 2, and COUNT = 128.
theorem test_stdWrn :
    sent (exec .stdWrn { operands with start := 0x40 }) =
      [0x01, 0x10, 0x00, 0x40, 0x00, 0x02, 0x04, 0x00, 0x0A, 0x01, 0x02, 0x57, 0xCC] := by decide +kernel
theorem test_stdWrn_reject :
    let t := after (exec .stdWrn { operands with count := 128, olen := 8 })
    t.cstat = 2 ∧ t.olen = 0 ∧ t.obuf = [] := by decide +kernel
-- R198: the scenario, and the row with extra bytes and an odd length.
theorem test_stdDec :
    let t := after (exec .stdDec (loaded [0x01, 0x04, 0x04, 0x00, 0x7B, 0x01, 0xC8, 0x8B, 0x9B]))
    t.rstat = 0x01000400 ∧ t.rlen = 4 ∧ t.nval = 2 ∧ t.rval = [(0, 0x007B), (1, 0x01C8)] := by decide +kernel
theorem test_stdDec_exception :
    (after (exec .stdDec (loaded [0x09, 0xFF, 0xFF, 0xA0, 0x72]))).rstat = 0x09FFFF61 := by decide +kernel
-- R225 in the three modes.
theorem test_lxpRd :
    sent (exec .lxpRd operands) = [0x01, 0x04] ++ serialBytes serB ++ serialBytes serD ++
      [0x07, 0x00, 0x02, 0x00, 0x78, 0x7E] := by decide +kernel
theorem test_lxpRd_one_serial :
    sent (exec .lxpRd { operands with serialMode := .deviceOnly }) =
      [0x01, 0x04] ++ serialBytes serD ++ [0x07, 0x00, 0x02, 0x00, 0x72, 0x52] ∧
    sent (exec .lxpRd { operands with serialMode := .bridgeOnly }) =
      [0x01, 0x04] ++ serialBytes serB ++ [0x07, 0x00, 0x02, 0x00, 0x2A, 0xD4] := by decide +kernel
-- R226.
theorem test_lxpWr1 :
    sent (exec .lxpWr1 { operands with start := 0x15, count := 0x1234 }) =
      [0x01, 0x06] ++ serialBytes serB ++ serialBytes serD ++ [0x15, 0x00, 0x34, 0x12, 0x41, 0x19] := by
  decide +kernel
-- R227.
theorem test_lxpWrn :
    sent (exec .lxpWrn { operands with start := 0x40 }) =
      [0x01, 0x10] ++ serialBytes serB ++ serialBytes serD ++
        [0x40, 0x00, 0x02, 0x00, 0x04, 0x0A, 0x00, 0x02, 0x01, 0x86, 0x69] := by decide +kernel
theorem test_lxpWrn_reject : (after (exec .lxpWrn { operands with count := 0xFFFF })).cstat = 2 := by decide +kernel
-- R237: a serial response with non-printable bytes, and a Standard frame.
theorem test_lxpDec :
    let t := after (exec .lxpDec (loaded ([0x01, 0x03] ++ serialBytes serB ++ serialBytes serD ++
      [0x0A, 0x31, 0x32, 0x00, 0x7F, 0x1F, 0x20, 0x7E, 0x80, 0xFF, 0x41, 0x5B, 0x65])))
    t.rstat = 0x01000308 ∧ t.rbser = serB ∧ t.rdser = serD ∧
      t.serout = ⟨0x31, 0x32, 0x3F, 0x3F, 0x3F, 0x20, 0x7E, 0x3F, 0x3F, 0x41⟩ ∧
      t.rval = [(0, 0x3231), (1, 0x7F00), (2, 0x201F), (3, 0x807E), (4, 0x41FF)] := by decide +kernel
theorem test_lxpDec_short :
    (after (exec .lxpDec (loaded [0x01, 0x84, 0x02, 0xC2, 0xC1]))).rstat = 0x00000017 := by decide +kernel
-- The wire rows: bytes built, and results of the decode tables.
theorem test_stdReqRd3 : sent (exec (.stdReqRd3 1 0 0x7D) State.reset) =
    [0x01, 0x03, 0x00, 0x00, 0x00, 0x7D, 0x85, 0xEB] := by decide +kernel
theorem test_stdReqRd4 : sent (exec (.stdReqRd4 0xFF 0xFFFF 0xFFFF) State.reset) =
    [0xFF, 0x04, 0xFF, 0xFF, 0xFF, 0xFF, 0xE4, 0x40] := by decide +kernel
theorem test_stdReqWr1 : sent (exec (.stdReqWr1 1 0x15 0xABCD) State.reset) =
    [0x01, 0x06, 0x00, 0x15, 0xAB, 0xCD, 0x26, 0xAB] := by decide +kernel
theorem test_stdReqWrn : sent (exec (.stdReqWrn 1 0x40 []) State.reset) =
    [0x01, 0x10, 0x00, 0x40, 0x00, 0x00, 0x00, 0x1C, 0x90] := by decide +kernel
theorem test_stdRspExc : (after (exec (.stdRspExc 1 3 6 []) State.reset)).rstat = 0x01068361 := by decide +kernel
theorem test_stdRspRd3 :
    let t := after (exec (.stdRspRd3 1 [0x12, 0x34, 0x56] []) State.reset)
    t.rstat = 0x01000300 ∧ t.rlen = 3 ∧ t.rval = [(0, 0x1234)] := by decide +kernel
theorem test_stdRspRd4 :
    (after (exec (.stdRspRd4 1 [0x00, 0x7B, 0x01, 0xC8] []) State.reset)).rval = [(0, 0x007B), (1, 0x01C8)] := by
  decide +kernel
theorem test_stdRspWr1 :
    let t := after (exec (.stdRspWr1 1 0x15 0x1234 []) State.reset)
    t.rstat = 0x01000600 ∧ t.rstart = 0x15 ∧ t.rcount = 0x1234 := by decide +kernel
theorem test_stdRspWrn :
    let t := after (exec (.stdRspWrn 1 0x40 2 []) State.reset)
    t.rstat = 0x01001000 ∧ t.rstart = 0x40 ∧ t.rcount = 2 := by decide +kernel
theorem test_lxpReqRd3 : sent (exec (.lxpReqRd3 1 (.both serB sentinelSerial) 0 5) State.reset) =
    [0x01, 0x03] ++ serialBytes serB ++ serialBytes sentinelSerial ++ [0x00, 0x00, 0x05, 0x00, 0x34, 0xEC] := by
  decide +kernel
theorem test_lxpReqRd4 : sent (exec (.lxpReqRd4 1 (.device serD) 7 2) (strapped .deviceOnly)) =
    [0x01, 0x04] ++ serialBytes serD ++ [0x07, 0x00, 0x02, 0x00, 0x72, 0x52] := by decide +kernel
theorem test_lxpReqWr1 : sent (exec (.lxpReqWr1 1 (.bridge serB) 0x15 0x1234) (strapped .bridgeOnly)) =
    [0x01, 0x06] ++ serialBytes serB ++ [0x15, 0x00, 0x34, 0x12, 0x3A, 0x00] := by decide +kernel
theorem test_lxpReqWrn : sent (exec (.lxpReqWrn 1 (.both serB serD) 0x40 []) State.reset) =
    [0x01, 0x10] ++ serialBytes serB ++ serialBytes serD ++ [0x40, 0x00, 0x00, 0x00, 0x00, 0x1A, 0x2D] := by
  decide +kernel
theorem test_lxpRspExc :
    let t := after (exec (.lxpRspExc 1 4 (.both serB serD) 2 []) State.reset)
    t.rstat = 0x01028461 ∧ t.rbser = serB ∧ t.rdser = serD := by decide +kernel
theorem test_lxpRspRd3 :
    let t := after (exec (.lxpRspRd3 1 (.both serB serD) (serialBytes serD) []) State.reset)
    t.rstat = 0x01000308 ∧ t.serout = serD ∧
      t.rval = [(0, 0x3231), (1, 0x3433), (2, 0x3635), (3, 0x3837), (4, 0x3039)] := by decide +kernel
theorem test_lxpRspRd4 :
    let t := after (exec (.lxpRspRd4 1 (.bridge serB) [0x7B, 0x00, 0xC8, 0x01] []) (strapped .bridgeOnly))
    t.rval = [(0, 0x007B), (1, 0x01C8)] ∧ t.rdser = zeroSerial := by decide +kernel
theorem test_lxpRspWr1 :
    let t := after (exec (.lxpRspWr1 1 (.device serD) 0x15 0x1234 []) (strapped .deviceOnly))
    t.rstat = 0x01000600 ∧ t.rcount = 0x1234 ∧ t.rbser = zeroSerial := by decide +kernel
theorem test_lxpRspWrn :
    let t := after (exec (.lxpRspWrn 1 (.both serB serD) 0x40 2 []) State.reset)
    t.rstat = 0x01001000 ∧ t.rstart = 0x40 ∧ t.rcount = 2 := by decide +kernel
-- The host port: section 8 of the vectors (the clamp, the dropped bits, the reserved opcode 0x20, only bits 7:0 of CMD).
theorem test_ilen_clamps : (after (step { State.reset with pending := [.write 0x030 513] })).ilen = 512 := by
  decide +kernel
theorem test_start_drops_bits :
    (after (step { State.reset with pending := [.write 0x028 0x12345] })).start = 0x2345 := by decide +kernel
theorem test_reserved_opcode : (after (step (State.reset.issue 0x20))).cstat = 1 := by decide +kernel
theorem test_cmd_low_byte : (after (step (State.reset.issue 0x111))).olen = 8 := by decide +kernel
-- The example offsets of R79.
theorem test_unmapped :
    locate 0x04C = none ∧ locate 0x05A = none ∧ locate 0x1FE = none ∧ locate 0x300 = none := by decide +kernel

/-! ### Witnesses: for each obligation with hypotheses, a state and operands that meet them, clause by clause -/

/-- Buffers of the spec's decode tables, one for each row of the decision table R270. -/
def bufShort : List Byte := [0x01, 0x04, 0x04, 0x00]
def bufBadCrc : List Byte := [0x01, 0x04, 0x04, 0x00, 0x7A, 0x01, 0xC8, 0x8B, 0x9B]
def bufExc : List Byte := [0x01, 0x84, 0x02, 0xC2, 0xC1]
def bufExcUnnamed : List Byte := [0x01, 0xFF, 0xFF, 0x21, 0xB0]
def bufTooLong : List Byte := [0x01, 0x04, 0x04, 0x00, 0x00, 0x01, 0x30, 0xFA]
def bufRead : List Byte := [0x01, 0x04, 0x04, 0x00, 0x7B, 0x01, 0xC8, 0x8B, 0x9B]
def bufEchoShort : List Byte := [0x01, 0x06, 0x00, 0x15, 0x12, 0x97, 0xD5]
def bufEcho : List Byte := [0x01, 0x06, 0x00, 0x15, 0x12, 0x34, 0x95, 0x79]
def bufUnsupported : List Byte := [0x01, 0x00, 0x00, 0x20, 0x00]
def bufSerial : List Byte := [0x01, 0x03] ++ serialBytes serB ++ serialBytes serD ++
  [0x0A, 0x31, 0x32, 0x33, 0x34, 0x35, 0x36, 0x37, 0x38, 0x39, 0x30, 0xA8, 0x94]
def bufNine : List Byte := [0x01, 0x03] ++ serialBytes serB ++ serialBytes serD ++
  [0x09, 0x31, 0x32, 0x33, 0x34, 0x35, 0x36, 0x37, 0x38, 0x39, 0x0E, 0x26]

/-- A reset state with one host access pending. -/
def pend (e : HostEvent) : State := { State.reset with pending := [e] }

theorem witness_DecodeOfEncodeIsTheInstruction :
    (Instr.lxpReqWrn 1 (.both serB serD) 0x40 (List.replicate 127 0xFFFF)).wf .both = true ∧
    (Instr.lxpRspRd3 1 (.device serD) (List.replicate 255 0) (List.replicate 242 0)).wf .deviceOnly = true := by
  decide +kernel
theorem witness_EncodeOfDecodeIsTheBytes :
    decode .both .stdRsp bufRead = .ok (.stdRspRd4 1 [0x00, 0x7B, 0x01, 0xC8] []) := by decide +kernel
theorem witness_StepRunsTheCommandWritten :
    (pend (.write 0x000 0x111)).pending = [.write 0x000 0x111] ∧
    decode (pend (.write 0x000 0x111)).serialMode .cmd [BitVec.ofNat 8 0x111] = .ok .stdRd ∧
    (pend (.read 0x000)).pending = [.read 0x000] := by decide +kernel
theorem witness_StepRunsThePresentedInstruction :
    (Instr.lxpRspWrn 1 (.both serB serD) 0x40 2 []).wf State.reset.serialMode = true := by decide +kernel
theorem witness_IdleBlockWaits : State.reset.pending = [] := rfl
theorem witness_ReservedOpcodeSetsIllegalCommand :
    (pend (.write 0x000 0x120)).pending = [.write 0x000 0x120] ∧
    0x120 % 256 ∉ [0x00, 0x01, 0x02, 0x03, 0x08, 0x09, 0x10, 0x11, 0x12, 0x13, 0x14, 0x21, 0x22, 0x23, 0x24] := by
  decide +kernel
theorem witness_HostReadReturnsTheScalar :
    (pend (.read 0x038)).pending = [.read 0x038] ∧ ((0x038, 0x17) : Nat × U32) ∈ [(0x038, State.reset.rstat)] := by
  decide +kernel
theorem witness_HostReadReturnsTheElement :
    (pend (.read (0x600 + 511))).pending = [.read (0x600 + 511)] ∧
    (pend (.read (0x200 + 2 * 126))).pending = [.read (0x200 + 2 * 126)] ∧
    (pend (.read (0x060 + 9))).pending = [.read (0x060 + 9)] ∧
    (serialBytes State.reset.dser)[9]? = some 0x30 := by decide +kernel
theorem witness_HostWriteStoresTheScalar :
    (pend (.write 0x030 513)).pending = [.write 0x030 513] ∧ (pend (.write 0x024 2)).pending = [.write 0x024 2] ∧
    (State.reset.arrive []) = { pend (.write 0x030 513) with pending := [], reply := none, draws := 1 } := by
  decide +kernel
theorem witness_HostWriteStoresTheElement :
    (pend (.write (0x400 + 511) 0x1FF)).pending = [.write (0x400 + 511) 0x1FF] ∧
    (pend (.write (0x100 + 2 * 126) 1)).pending = [.write (0x100 + 2 * 126) 1] ∧
    (pend (.write (0x050 + 9) 1)).pending = [.write (0x050 + 9) 1] ∧
    (pend (.write (0x060 + 9) 1)).pending = [.write (0x060 + 9) 1] := by decide +kernel
theorem witness_HostWriteToReadOnlyIsIgnored :
    (pend (.write 0x034 0x63)).pending = [.write 0x034 0x63] ∧
    (0x034 : Nat) ∈ [0x004, 0x01C, 0x034, 0x038, 0x03C, 0x040, 0x044, 0x048] ∧
    (pend (.write 0x2FC 1)).pending = [.write 0x2FC 1] ∧ (0x200 : Nat) ≤ 0x2FC ∧ 0x2FC % 2 = 0 ∧
    (pend (.write 0x7FF 1)).pending = [.write 0x7FF 1] := by decide +kernel
theorem witness_UnmappedOffsetIsRefused :
    (pend (.read 0x04C)).pending = [.read 0x04C] ∧ (pend (.write 0x1FE 1)).pending = [.write 0x1FE 1] ∧
    (0x1FE : Nat) ≤ 0x7FF := by decide +kernel
theorem witness_ResetRestoresTheResetValues : (pend .reset).pending = [.reset] := rfl
theorem witness_CommandsWorkStraightAfterReset : Instr.crcBuf.space = .cmd := rfl
theorem witness_InputIsTheBufferPrefix :
    1 < (loaded bufExc).ilen.toNat ∧ readCell (loaded bufExc).ibuf 1 = some 0x84 := by decide +kernel
theorem witness_CrcDetectsEverySingleBitError : (7 : Nat) < 8 := by decide
theorem witness_BfGetReturnsTheField :
    (8 : Nat) = (0x0808 : U16).toNat % 256 ∧ 8 = (0x0808 : U16).toNat / 256 ∧
    255 = (0xFFFF : U16).toNat % 256 ∧ 255 = (0xFFFF : U16).toNat / 256 := by decide +kernel
theorem witness_BfSetReplacesTheWindow :
    { State.reset with bfpos := 0x0808 }.bfpos.toNat % 256 + { State.reset with bfpos := 0x0808 }.bfpos.toNat / 256 = 16 ∧
    { State.reset with bfpos := 0x0809 }.bfpos.toNat % 256 + { State.reset with bfpos := 0x0809 }.bfpos.toNat / 256 = 17 := by
  decide +kernel
theorem witness_BitFieldOutOfRangeIsRejected :
    16 < { State.reset with bfpos := 0x08F8 }.bfpos.toNat % 256 + { State.reset with bfpos := 0x08F8 }.bfpos.toNat / 256 ∧
    { State.reset with bfpos := 0x0010 }.bfpos.toNat % 256 + { State.reset with bfpos := 0x0010 }.bfpos.toNat / 256 ≤ 16 := by
  decide +kernel
theorem witness_BitFieldLaws : 16 + 0 ≤ 16 ∧ 0 + 16 ≤ 16 := by decide
theorem witness_StdShortRequestBytes :
    ((Instr.stdRd = .stdRd ∧ (4 : Byte) = if operands.fsel = 1 then 4 else 3)) ∧ (Instr.stdWr1 = .stdWr1 ∧ (6 : Byte) = 6) := by
  decide +kernel
theorem witness_StdWriteManyRequestBytes :
    (127 : Nat) = { operands with count := 127 }.count.toNat ∧ (128 : Nat) = { operands with count := 128 }.count.toNat ∧
    readCell operands.wval 1 = some 0x0102 := by decide +kernel
theorem witness_LxpShortRequestBytes :
    (4 : Byte) = (if operands.fsel = 1 then 4 else 3) ∧ operands.serialMode = .both ∧
    (strapped .deviceOnly).serialMode = .deviceOnly ∧ (strapped .bridgeOnly).serialMode = .bridgeOnly := by
  decide +kernel
theorem witness_LxpWriteManyRequestBytes :
    (127 : Nat) = { operands with count := 127 }.count.toNat ∧ (128 : Nat) = { operands with count := 128 }.count.toNat ∧
    (22 : Nat) = (match operands.serialMode with | .both => 22 | .deviceOnly => 12 | .bridgeOnly => 12) := by
  decide +kernel
/-- Each row of the decision table has a buffer, some at the boundary of its length test. -/
theorem witness_DecodeCommandsFollowTheDecisionTable :
    (loaded bufShort).input.length + 1 = headerLength .std + 3 ∧
    (crcOk (loaded bufBadCrc).input = false ∧ headerLength .std + 3 ≤ (loaded bufBadCrc).input.length) ∧
    (crcOk (loaded bufExc).input = true ∧ (byteAt (loaded bufExc).input 1).getLsbD 7 = true ∧
      (loaded bufExc).input.length = headerLength .std + 3) ∧
    (crcOk (loaded bufTooLong).input = true ∧ (byteAt (loaded bufTooLong).input 1).toNat = 4 ∧
      (loaded bufTooLong).input.length + 1 = 2 + 1 + 4 + 2) ∧
    (crcOk (loaded bufRead).input = true ∧ (byteAt (loaded bufRead).input 1).toNat = 4 ∧
      (loaded bufRead).input.length = 2 + 1 + 4 + 2) ∧
    (crcOk (loaded bufEchoShort).input = true ∧ (byteAt (loaded bufEchoShort).input 1).toNat = 6 ∧
      (loaded bufEchoShort).input.length + 1 = 2 + 6) ∧
    (crcOk (loaded bufEcho).input = true ∧ (byteAt (loaded bufEcho).input 1).toNat = 6 ∧
      (loaded bufEcho).input.length = 2 + 6) ∧
    (crcOk (loaded bufUnsupported).input = true ∧ (byteAt (loaded bufUnsupported).input 1).toNat = 0 ∧
      (loaded bufUnsupported).input.length = 5) := by decide +kernel
theorem witness_DecodeCommandsReportTheHeader :
    exec .stdDec (loaded bufBadCrc) = .next (after (exec .stdDec (loaded bufBadCrc))) ∧
    exec .lxpDec (loaded bufShort) = .next (after (exec .lxpDec (loaded bufShort))) := ⟨rfl, rfl⟩
theorem witness_DecodeCommandsReportTheSerials :
    exec .stdDec (loaded bufRead) = .next (after (exec .stdDec (loaded bufRead))) ∧
    exec .lxpDec (loaded bufSerial) = .next (after (exec .lxpDec (loaded bufSerial))) := ⟨rfl, rfl⟩
theorem witness_DecodeCommandsReportTheSerials_length :
    headerLength (.lxp .both) + 3 ≤ (loaded bufSerial).input.length ∧
    ¬ headerLength (.lxp .both) + 3 ≤ (loaded bufShort).input.length := by decide +kernel
theorem witness_ReadResponseValues :
    exec .stdDec (loaded bufRead) = .next (after (exec .stdDec (loaded bufRead))) ∧
    rstatKind (after (exec .stdDec (loaded bufRead))).rstat = kindCode .success ∧
    rstatFunc (after (exec .stdDec (loaded bufRead))).rstat = 4 := ⟨rfl, by decide +kernel, by decide +kernel⟩
theorem witness_SerialReportIsSanitized :
    exec .lxpDec (loaded bufSerial) = .next (after (exec .lxpDec (loaded bufSerial))) ∧
    rstatKind (after (exec .lxpDec (loaded bufSerial))).rstat = kindCode .success ∧
    rstatFunc (after (exec .lxpDec (loaded bufSerial))).rstat = 3 ∧ byteAt (loaded bufSerial).input 22 = 10 ∧
    rstatKind (after (exec .lxpDec (loaded bufNine))).rstat = kindCode .success ∧
    byteAt (loaded bufNine).input 22 = 9 :=
  ⟨rfl, by decide +kernel, by decide +kernel, by decide +kernel, by decide +kernel, by decide +kernel⟩
theorem witness_WriteEchoFields :
    exec .stdDec (loaded bufEcho) = .next (after (exec .stdDec (loaded bufEcho))) ∧
    rstatKind (after (exec .stdDec (loaded bufEcho))).rstat = kindCode .success ∧
    rstatFunc (after (exec .stdDec (loaded bufEcho))).rstat = 6 := ⟨rfl, by decide +kernel, by decide +kernel⟩
/-- The exception of scenario S7, and a frame of the minimum length with an unnamed code (255) under an unknown function
(127). -/
theorem witness_ExceptionCodeIsPassedThrough :
    exec .stdDec (loaded bufExc) = .next (after (exec .stdDec (loaded bufExc))) ∧
    rstatKind (after (exec .stdDec (loaded bufExc))).rstat = kindCode .exception ∧
    headerLength .std + 3 = (loaded bufExcUnnamed).input.length ∧
    crc16 ((loaded bufExcUnnamed).input.take 3) = le16 (loaded bufExcUnnamed).input 3 ∧
    (byteAt (loaded bufExcUnnamed).input 1).getLsbD 7 = true :=
  ⟨rfl, by decide +kernel, by decide +kernel, by decide +kernel, by decide +kernel⟩
theorem witness_NoPartialPayload :
    exec .stdDec (loaded bufTooLong) = .next (after (exec .stdDec (loaded bufTooLong))) ∧
    rstatKind (after (exec .stdDec (loaded bufTooLong))).rstat ≠ kindCode .success ∧
    rstatKind (after (exec .stdDec (loaded bufTooLong))).rstat ≠ kindCode .exception :=
  ⟨rfl, by decide +kernel, by decide +kernel⟩
/-- One decode for each clause: an exception, a bad checksum, a read, a write-single and a write-multiple echo. -/
theorem witness_DecodedResponseOfADecode :
    (after (exec .stdDec (loaded bufExc))).decodedResponse.kind = .exception ∧
    (after (exec .stdDec (loaded bufBadCrc))).decodedResponse.kind = .checksumMismatch ∧
    (after (exec .stdDec (loaded bufRead))).decodedResponse.kind = .success ∧
    rstatFunc (after (exec .stdDec (loaded bufRead))).rstat = 4 ∧
    rstatFunc (after (exec .stdDec (loaded bufEcho))).rstat = 6 ∧
    rstatFunc (after (exec .stdDec (loaded [0x01, 0x10, 0x00, 0x40, 0x00, 0x02, 0x40, 0x1C]))).rstat = 16 := by
  decide +kernel
theorem witness_EncodedWritesRoundTrip : (List.replicate 127 (0xFFFF : U16)).length ≤ 127 := by decide +kernel
theorem witness_EverySingleBitFlipIsAChecksumMismatch :
    (7 : Nat) < 8 ∧ headerLength .std + 3 ≤ ([0x01] ++ [0x84] ++ [0x02, 0xC2, 0xC1] : List Byte).length ∧
    crcOk ([0x01] ++ [0x84] ++ [0x02, 0xC2, 0xC1]) = true := by decide +kernel
theorem witness_RoundTripThroughTheReferenceResponder :
    (HeaderSerials.both serB serD).fits .both = true ∧ 1 ≤ (2 : U16).toNat ∧ (2 : U16).toNat ≤ 127 ∧
    deviceBlock [(7, 123), (8, 456)] (7 : U16).toNat (2 : U16).toNat = some [123, 456] ∧
    ([0x000A, 0x0102] : List U16).length ≤ 127 := by decide +kernel
theorem witness_RequestRowsBuildTheirEncoding :
    (Instr.stdReqWrn 1 0x40 [10]).space = .stdReq ∧ (Instr.stdReqWrn 1 0x40 [10]).wf State.reset.serialMode = true ∧
    (Instr.lxpReqRd3 1 (.both serB serD) 0 5).space = .lxpReq ∧
    (Instr.lxpReqRd3 1 (.both serB serD) 0 5).wf State.reset.serialMode = true := by decide +kernel
theorem witness_ResponseRowsReportTheirDecoding :
    (Instr.stdRspExc 1 4 2 []).space = .stdRsp ∧ (Instr.stdRspExc 1 4 2 []).wf State.reset.serialMode = true ∧
    (Instr.lxpRspRd3 1 (.both serB serD) [1, 2] [3]).space = .lxpRsp ∧
    (Instr.lxpRspRd3 1 (.both serB serD) [1, 2] [3]).wf State.reset.serialMode = true := by decide +kernel
theorem witness_DecodeCommandsRunTheRowInTheBuffer :
    decode .both .stdRsp (loaded bufEcho).input = .ok (.stdRspWr1 1 0x15 0x1234 []) ∧
    decode .both .lxpRsp (loaded bufSerial).input = .ok (.lxpRspRd3 1 (.both serB serD) (serialBytes serD) []) := by
  decide +kernel
theorem witness_IllFormedRowsAreRefused :
    (Instr.lxpReqRd4 1 (.bridge serB) 0 1).wf State.reset.serialMode = false := by decide +kernel
theorem witness_StdResponseRowResults :
    (Instr.stdRspExc 1 4 2 []).wf .both = true ∧ (Instr.stdRspRd3 1 (List.replicate 255 0) []).wf .both = true ∧
    (Instr.stdRspRd4 1 [] []).wf .both = true ∧ (Instr.stdRspWr1 1 0 0 []).wf .both = true ∧
    (Instr.stdRspWrn 1 0 0 []).wf .both = true := by decide +kernel
theorem witness_LxpResponseRowResults :
    (Instr.lxpRspExc 1 4 (.both serB serD) 2 []).wf .both = true ∧
    (Instr.lxpRspRd3 1 (.both serB serD) (serialBytes serD) []).wf .both = true ∧
    (Instr.lxpRspRd4 1 (.both serB serD) [] []).wf .both = true ∧
    (Instr.lxpRspWr1 1 (.both serB serD) 0 0 []).wf .both = true ∧
    (Instr.lxpRspWrn 1 (.both serB serD) 0 0 []).wf .both = true := by decide +kernel
theorem witness_CommandsNeverStop : Instr.lxpDec.space = .cmd := rfl
theorem witness_CerrDescribesTheCommand :
    exec .lxpWrn { operands with count := 128 } = .next (after (exec .lxpWrn { operands with count := 128 })) ∧
    127 < { operands with count := 128 }.count.toNat ∧
    exec .bfGet { operands with bfpos := 0x0809 } = .next (after (exec .bfGet { operands with bfpos := 0x0809 })) ∧
    16 < { operands with bfpos := 0x0809 }.bfpos.toNat % 256 + { operands with bfpos := 0x0809 }.bfpos.toNat / 256 ∧
    exec .nop operands = .next (after (exec .nop operands)) :=
  ⟨rfl, by decide +kernel, rfl, by decide +kernel, rfl⟩
theorem witness_OperandsAreNeverWritten : exec .lxpRd operands = .next (after (exec .lxpRd operands)) := rfl
theorem witness_ResultsOfOtherGroupsSurvive :
    exec .stdDec (loaded bufRead) = .next (after (exec .stdDec (loaded bufRead))) ∧
    exec .stdRd operands = .next (after (exec .stdRd operands)) := ⟨rfl, rfl⟩
/-- Two states that differ in every kind of result register and, for a command that is no CRC command, in CRCACC. -/
theorem witness_NoCommandReadsAResultRegister :
    SameOperands (loaded bufRead) { loaded bufRead with
      crcacc := 0, cstat := 2, bfq := 1, olen := 1, obuf := [(0, 1)], rstat := 0, nval := 1, rval := [(0, 1)], serout := serD } ∧
    (.stdDec : Instr) ∉ [Instr.crcInit, .crcByte, .crcBuf] ∧
    exec .stdDec (loaded bufRead) = .next (after (exec .stdDec (loaded bufRead))) := by
  refine ⟨?_, by decide, rfl⟩
  constructor <;> rfl
theorem witness_EncodedFramesCarryTheirCrc :
    exec .stdWrn operands = .next (after (exec .stdWrn operands)) := rfl
/-- A state of the invariant in which a decode is about to run, and its next state. -/
theorem witness_EveryStepKeepsTheInvariant :
    Inv (pend (.write 0x000 0x14)) ∧ step (pend (.write 0x000 0x14)) = .next (after (step (pend (.write 0x000 0x14)))) := by
  refine ⟨?_, rfl⟩
  constructor <;> first | decide +kernel | exact ⟨.tooShort, by decide +kernel⟩
theorem witness_SafeProgramsNeverStop : Safe (pend (.write 0x000 0x14)) := by
  intro e he
  simp only [pend, List.mem_singleton] at he
  subst he
  decide +kernel
theorem witness_ConfigurationNeverChanges : step (pend .reset) = .next (after (step (pend .reset))) := rfl

end Sys2Proof.Tests
end

section
/-! PROOFS. What a command leaves behind, as one effect that the operands alone determine (spec 10_state.md
R53). -/

namespace Sys2Proof.Machine

/-- What a command leaves behind (R40, R41, R50, R53, R181): CERR alone, or one group of registers with CERR. -/
inductive Effect where
  | status (e : CErr)
  | crcacc (v : U16)
  | bfq (v : U16)
  | addr (v : Byte)
  | frame (f : List Byte) (e : CErr)
  | results (d : Decoded)

/-- The state an effect makes of a state. -/
def Effect.apply (s : State) : Effect → State
  | .status e => s.setCerr e
  | .crcacc v => (s.setCrcacc v).setCerr .ok
  | .bfq v => (s.setBfq v).setCerr .ok
  | .addr v => (s.setAddr v).setCerr .ok
  | .frame f e => (s.putFrame f).setCerr e
  | .results d => (s.latch d).setCerr .ok

/-- Which commands have an effect of which kind: CRCACC is written by the CRC commands, and by them every time; the
decode results by the decoders, and by them every time. -/
def Effect.MadeBy (i : Instr) : Effect → Prop
  | .crcacc _ => i ∈ [.crcInit, .crcByte, .crcBuf]
  | .results _ => i = .stdDec ∨ i = .lxpDec
  | .status _ | .bfq _ | .addr _ | .frame _ _ => i ∉ [.crcInit, .crcByte, .crcBuf] ∧ i ≠ .stdDec ∧ i ≠ .lxpDec

/-- A bit-field command ends alike on every state, for one outcome of the bit-field unit (R163). -/
theorem finishBitField_effect (q : Option U16) :
    ∃ w : Effect, (w = .status .operandRange ∨ ∃ v, w = .bfq v) ∧ ∀ s, finishBitField q s = .next (w.apply s) := by
  cases q with
  | some v => exact ⟨.bfq v, .inr ⟨v, rfl⟩, fun _ => rfl⟩
  | none => exact ⟨.status .operandRange, .inl rfl, fun _ => rfl⟩

/-- A write-multiple command ends alike on every state, for one outcome of its operand check and one frame (R187,
R227). -/
theorem emitOrReject_effect (inRange : Bool) (f : List Byte) :
    ∃ g e, ∀ s, (if inRange then emitFrame f s else rejectFrame s) = .next ((Effect.frame g e).apply s) := by
  cases inRange with
  | true => exact ⟨f, .ok, fun _ => rfl⟩
  | false => exact ⟨[], .operandRange, fun _ => rfl⟩

/-- The operands, the strap and the model's own fields of `s` beside the result registers and the CRCACC of `r`. -/
def State.withResults (s r : State) : State :=
  { s with
    cstat := r.cstat, crcacc := r.crcacc, bfq := r.bfq, olen := r.olen, obuf := r.obuf, rstat := r.rstat
    rstart := r.rstart, rcount := r.rcount, nval := r.nval, rlen := r.rlen, rval := r.rval
    rbser := r.rbser, rdser := r.rdser, serout := r.serout }

/-- States that agree on the operands differ in result registers and CRCACC only (R53). -/
theorem SameOperands.withResults_eq {s s' : State} (h : SameOperands s s') : s.withResults s' = s' := by
  simp only [State.withResults, h.serialMode, h.crcin, h.bfr, h.bfpos, h.bfv, h.addr, h.fsel, h.start, h.count, h.ilen,
    h.bser, h.dser, h.wval, h.ibuf, h.pending, h.reply, h.draws]

/-- A command's effect is the same whatever the result registers hold, and, but for the CRC commands, whatever CRCACC
holds: the operand gathering of Machine/Operands.lean reads neither (R53). -/
theorem exec_effect_withResults {i : Instr} (s r : State) (hi : i.space = .cmd)
    (hcrc : i ∈ [.crcInit, .crcByte, .crcBuf] → r.crcacc = s.crcacc) :
    ∃ w : Effect, w.MadeBy i ∧ exec i s = .next (w.apply s) ∧
      exec i (s.withResults r) = .next (w.apply (s.withResults r)) := by
  cases i
  case nop => exact ⟨.status .ok, by simp [Effect.MadeBy], rfl, rfl⟩
  case crcInit => exact ⟨.crcacc Config.crcInit, by simp [Effect.MadeBy], rfl, rfl⟩
  case crcByte =>
    have hacc : r.crcacc = s.crcacc := hcrc (by simp)
    exact ⟨.crcacc (crcStep s.crcacc s.crcin), by simp [Effect.MadeBy], rfl, hacc ▸ rfl⟩
  case crcBuf => exact ⟨.crcacc (crc16 s.input), by simp [Effect.MadeBy], rfl, rfl⟩
  case bfGet =>
    obtain ⟨w, hw, he⟩ := finishBitField_effect (getBits s.bfr s.bfOffset s.bfWidth)
    exact ⟨w, by rcases hw with rfl | ⟨v, rfl⟩ <;> simp [Effect.MadeBy], he s, he (s.withResults r)⟩
  case bfSet =>
    obtain ⟨w, hw, he⟩ := finishBitField_effect (setBits s.bfr s.bfOffset s.bfWidth s.bfv)
    exact ⟨w, by rcases hw with rfl | ⟨v, rfl⟩ <;> simp [Effect.MadeBy], he s, he (s.withResults r)⟩
  case stdAddr => exact ⟨.addr (resolveAddress s.input), by simp [Effect.MadeBy], rfl, rfl⟩
  case stdRd => exact ⟨.frame (stdEncRead s.addr s.fsel s.start s.count) .ok, by simp [Effect.MadeBy], rfl, rfl⟩
  case stdWr1 => exact ⟨.frame (stdEncWrite1 s.addr s.start s.count) .ok, by simp [Effect.MadeBy], rfl, rfl⟩
  case stdWrn =>
    obtain ⟨g, e, he⟩ := emitOrReject_effect s.countInRange (stdEncWriten s.addr s.start s.writeValues)
    exact ⟨.frame g e, by simp [Effect.MadeBy], he s, he (s.withResults r)⟩
  case stdDec => exact ⟨.results (stdDecode s.input), by simp [Effect.MadeBy], rfl, rfl⟩
  case lxpRd =>
    exact ⟨.frame (lxpEncRead s.addr s.fsel s.headerSerials s.start s.count) .ok, by simp [Effect.MadeBy], rfl, rfl⟩
  case lxpWr1 =>
    exact ⟨.frame (lxpEncWrite1 s.addr s.headerSerials s.start s.count) .ok, by simp [Effect.MadeBy], rfl, rfl⟩
  case lxpWrn =>
    obtain ⟨g, e, he⟩ :=
      emitOrReject_effect s.countInRange (lxpEncWriten s.addr s.headerSerials s.start s.writeValues)
    exact ⟨.frame g e, by simp [Effect.MadeBy], he s, he (s.withResults r)⟩
  case lxpDec => exact ⟨.results (lxpDecode s.serialMode s.input), by simp [Effect.MadeBy], rfl, rfl⟩
  all_goals cases hi

/-- From two states that agree on the operands, and for a CRC command on CRCACC, a command has one and the same
effect. -/
theorem exec_effect_sameOperands {i : Instr} {s s' : State} (hi : i.space = .cmd) (h : SameOperands s s')
    (hcrc : i ∈ [.crcInit, .crcByte, .crcBuf] → s.crcacc = s'.crcacc) :
    ∃ w : Effect, w.MadeBy i ∧ exec i s = .next (w.apply s) ∧ exec i s' = .next (w.apply s') := by
  have he := exec_effect_withResults s s' hi (fun hc => (hcrc hc).symm)
  rwa [h.withResults_eq] at he

/-- One effect on two states that agree on the operands leaves them agreeing. -/
theorem SameOperands.apply {s s' : State} (h : SameOperands s s') (w : Effect) :
    SameOperands (w.apply s) (w.apply s') := by
  cases w with
  | addr v => exact { h with addr := rfl }
  | status | crcacc | bfq | frame | results => exact { h with }

/-- Every effect sets CSTAT, to a value of its own (R44). -/
theorem Effect.apply_cstat (w : Effect) (s s' : State) : (w.apply s).cstat = (w.apply s').cstat := by
  cases w <;> rfl

/-- An effect gives BFQ a value of its own or leaves it alone. -/
theorem Effect.apply_bfq (w : Effect) (s s' : State) :
    (w.apply s).bfq = (w.apply s').bfq ∨ (w.apply s).bfq = s.bfq ∧ (w.apply s').bfq = s'.bfq := by
  cases w with
  | bfq v => exact .inl rfl
  | status | crcacc | addr | frame | results => exact .inr ⟨rfl, rfl⟩

/-- An effect gives OLEN and OBUF values of its own or leaves both alone. -/
theorem Effect.apply_frame (w : Effect) (s s' : State) :
    (w.apply s).olen = (w.apply s').olen ∧ (w.apply s).obuf = (w.apply s').obuf ∨
      (w.apply s).olen = s.olen ∧ (w.apply s').olen = s'.olen ∧
        (w.apply s).obuf = s.obuf ∧ (w.apply s').obuf = s'.obuf := by
  cases w with
  | frame f e => exact .inl ⟨rfl, rfl⟩
  | status | crcacc | bfq | addr | results => exact .inr ⟨rfl, rfl, rfl, rfl⟩

/-- CRCACC gets a value of the effect's own from a CRC command and is left alone by every other (R40). -/
theorem Effect.MadeBy.apply_crcacc {i : Instr} {w : Effect} (hw : w.MadeBy i) (s s' : State) :
    if i ∈ [.crcInit, .crcByte, .crcBuf] then (w.apply s).crcacc = (w.apply s').crcacc
    else (w.apply s).crcacc = s.crcacc ∧ (w.apply s').crcacc = s'.crcacc := by
  cases w with
  | crcacc v =>
    have hcrc : i ∈ [.crcInit, .crcByte, .crcBuf] := hw
    rw [if_pos hcrc]
    rfl
  | results d =>
    rw [if_neg (by rcases hw with rfl | rfl <;> simp)]
    exact ⟨rfl, rfl⟩
  | status | bfq | addr | frame =>
    rw [if_neg hw.1]
    exact ⟨rfl, rfl⟩

/-- A decode command has the effect of one record. -/
theorem Effect.MadeBy.eq_results {i : Instr} {w : Effect} (hw : w.MadeBy i) (hi : i = .stdDec ∨ i = .lxpDec) :
    ∃ d, w = .results d := by
  cases w with
  | results d => exact ⟨d, rfl⟩
  | crcacc v => rcases hi with rfl | rfl <;> simp [Effect.MadeBy] at hw
  | status | bfq | addr | frame =>
    obtain ⟨-, hstd, hlxp⟩ := hw
    exact absurd hi (not_or.mpr ⟨hstd, hlxp⟩)

/-- A command that is no decode command leaves every decode result alone (R53, R355). -/
theorem Effect.MadeBy.apply_keeps_results {i : Instr} {w : Effect} (hw : w.MadeBy i) (hstd : i ≠ .stdDec)
    (hlxp : i ≠ .lxpDec) (s : State) : w.apply s = { w.apply s with
      rstat := s.rstat, rstart := s.rstart, rcount := s.rcount, nval := s.nval, rlen := s.rlen
      rval := s.rval, rbser := s.rbser, rdser := s.rdser, serout := s.serout } := by
  cases w with
  | results d => exact absurd hw (not_or.mpr ⟨hstd, hlxp⟩)
  | status | crcacc | bfq | addr | frame => rfl

/-- Settles O55: a command's effect is a function of the operands, so two states that agree on them get the same one,
and what an effect does to each register says the rest. -/
theorem noCommandReadsAResultRegister : Obligations.NoCommandReadsAResultRegister := by
  unfold Obligations.NoCommandReadsAResultRegister
  intro i s s' t hi hops hcrc ht
  obtain ⟨w, hw, he, he'⟩ := exec_effect_sameOperands hi hops hcrc
  obtain rfl : w.apply s = t := Host.Outcome.next.inj (he.symm.trans ht)
  refine ⟨w.apply s', he', hops.apply w, w.apply_cstat s s', hw.apply_crcacc s s', w.apply_bfq s s',
    w.apply_frame s s', fun hdec => ?_, fun hstd hlxp => hw.apply_keeps_results hstd hlxp s'⟩
  obtain ⟨d, rfl⟩ := hw.eq_results hdec
  exact ⟨rfl, rfl, rfl, rfl, rfl, rfl, rfl, rfl, rfl⟩

end Sys2Proof.Machine
end

section
/-! PROOFS. The step on an access to CMD and on the reset input (spec 10_state.md R43, R54). -/

namespace Sys2Proof.Machine

/-- The step is the host's next access, on the state at which it has arrived (R82). -/
theorem step_of_pending {s : State} {e : HostEvent} {rest : List HostEvent} (h : s.pending = e :: rest) :
    step s = access e (s.arrive rest) := by
  simp only [step, h]

/-- Offset 0 is CMD: a write there runs a command (R43, R55). -/
theorem access_write_cmd (v : Nat) (s : State) : access (.write 0x000 v) s = runCommand v s := rfl

/-- A read of CMD returns 0 (R43, R55). -/
theorem access_read_cmd (s : State) : access (.read 0x000) s = .next (s.answer 0) := rfl

/-- A number whose low byte decodes to a command runs that command (R101). -/
theorem runCommand_of_decode {s : State} {v : Nat} {i : Instr}
    (h : decode s.serialMode .cmd [BitVec.ofNat 8 v] = .ok i) : runCommand v s = exec i s := by
  simp only [runCommand, h]

/-- Settles O4: the next access is the step, offset 0 is CMD, and the decoded low byte is what runs. -/
theorem stepRunsTheCommandWritten : Obligations.StepRunsTheCommandWritten := by
  unfold Obligations.StepRunsTheCommandWritten
  intro s v rest i
  refine ⟨fun hp hdec => ?_, fun hp => ?_⟩
  · calc step s = runCommand v (s.arrive rest) := by rw [step_of_pending hp, access_write_cmd]
      _ = exec i (s.arrive rest) := runCommand_of_decode hdec
  · rw [step_of_pending hp, access_read_cmd]
    rfl

/-- Settles O14: the step on the reset input is `State.onReset`, whose fields are those of the reset table. -/
theorem resetRestoresTheResetValues : Obligations.ResetRestoresTheResetValues := by
  unfold Obligations.ResetRestoresTheResetValues
  intro s rest hp
  exact ⟨(s.arrive rest).onReset, step_of_pending hp, rfl⟩

end Sys2Proof.Machine
end

section
/-! PROOFS. Which offsets of the block the register map holds, and when an access is refused (spec 10_state.md R55,
20_memory.md R79). -/

namespace Sys2Proof.Machine

/-- Only the first byte of an element is mapped (R55, R79). -/
theorem elementAt_isSome_iff (base size n off : Nat) :
    (elementAt base size n off).isSome ↔ base ≤ off ∧ off < base + size * n ∧ (off - base) % size = 0 := by
  unfold elementAt
  split_ifs with h <;> simp [h]

/-- The offsets of the array elements (R55): IBUF and OBUF together fill the upper half of the block. -/
theorem elementLoc_isSome_iff (off : Nat) :
    (elementLoc off).isSome ↔
      (0x050 ≤ off ∧ off ≤ 0x059) ∨ (0x060 ≤ off ∧ off ≤ 0x069) ∨ (0x070 ≤ off ∧ off ≤ 0x079) ∨
      (0x080 ≤ off ∧ off ≤ 0x089) ∨ (0x090 ≤ off ∧ off ≤ 0x099) ∨
      (0x100 ≤ off ∧ off ≤ 0x1FC ∧ off % 2 = 0) ∨ (0x200 ≤ off ∧ off ≤ 0x2FC ∧ off % 2 = 0) ∨
      (0x400 ≤ off ∧ off < blockSize) := by
  unfold elementLoc
  split_ifs <;> simp only [Option.isSome_map, elementAt_isSome_iff, Config.nvalMax, Config.bufSize, blockSize] <;> omega

/-- The mapped offsets are those of the scalars, one word apart from CMD to RLEN, and those of the elements (R55). -/
theorem locate_isSome_iff (off : Nat) :
    (locate off).isSome ↔ (off ≤ 0x048 ∧ off % 4 = 0) ∨ (elementLoc off).isSome := by
  unfold locate
  split
  -- The last arm is the array elements; every other arm is a scalar's literal offset.
  case h_20 =>
    have hscalar : ¬ (off ≤ 0x048 ∧ off % 4 = 0) := by
      simp only [imp_false] at *
      omega
    simp only [hscalar, false_or]
  all_goals simp

/-- An opcode of the table names a command, not a wire row (R101). -/
theorem commandOf_space {op : Byte} {i : Instr} (h : commandOf op = .ok i) : i.space = .cmd := by
  unfold commandOf at h
  split at h <;> cases h <;> rfl

/-- A write to CMD answers a next state, whatever its number (R261, R291, R307). -/
theorem runCommand_answers (v : Nat) (s : State) : ∃ t, runCommand v s = .next t := by
  rcases runCommand_cases v s with ⟨i, hi, hrun⟩ | ⟨e, -, hrun⟩
  · obtain ⟨w, -, hexec, -⟩ := exec_effect_withResults s s (commandOf_space hi) (fun _ => rfl)
    exact ⟨w.apply s, hrun.trans hexec⟩
  · exact ⟨_, hrun⟩

/-- A write to a mapped place answers a next state. -/
theorem writeLoc_answers (v : Nat) (s : State) (loc : Loc) : ∃ t, writeLoc v s loc = .next t := by
  cases loc with
  | cmd => exact runCommand_answers v s
  | _ => exact ⟨_, rfl⟩

/-- Inside the block only a missing place is refused, when every mapped place answers (R79). -/
theorem withLoc_unmapped_iff {off : Nat} {k : Loc → Result} (hoff : off < blockSize)
    (hk : ∀ loc, ∃ t, k loc = .next t) :
    withLoc off k = .refused (.unmappedOffset off) ↔ locate off = none := by
  unfold withLoc
  rw [if_neg hoff.not_ge]
  cases locate off with
  | none => simp
  | some loc =>
    obtain ⟨t, ht⟩ := hk loc
    simp [ht]

/-- A read or write inside the block is refused as unmapped exactly where the map holds nothing (R55, R79). -/
theorem access_unmapped_iff {e : HostEvent} {off : Nat} (s : State) (he : e = .read off ∨ ∃ v, e = .write off v)
    (hoff : off < blockSize) : access e s = .refused (.unmappedOffset off) ↔ locate off = none := by
  rcases he with rfl | ⟨v, rfl⟩
  · exact withLoc_unmapped_iff hoff fun _ => ⟨_, rfl⟩
  · exact withLoc_unmapped_iff hoff (writeLoc_answers v s)

/-- Settles O13: the step is the access, which is refused exactly where the map holds nothing, and the map's offsets
are the listed ones. -/
theorem unmappedOffsetIsRefused : Obligations.UnmappedOffsetIsRefused := by
  unfold Obligations.UnmappedOffsetIsRefused
  intro s rest e off hp he hoff
  have hblock : off < blockSize := Nat.lt_succ_of_le hoff
  rw [step_of_pending hp, access_unmapped_iff _ he hblock, ← Option.not_isSome_iff_eq_none, locate_isSome_iff,
    elementLoc_isSome_iff]
  simp only [hblock, and_true]

end Sys2Proof.Machine
end

section
/-! PROOFS. What a write of a reserved opcode to CMD does (spec 30_encoding.md R102, 60_exceptions.md R291). -/

namespace Sys2Proof.Machine

/-- The opcodes of the command table (R101); the other 241 bytes are reserved (R102). -/
def commandOpcodes : List Nat :=
  [0x00, 0x01, 0x02, 0x03, 0x08, 0x09, 0x10, 0x11, 0x12, 0x13, 0x14, 0x21, 0x22, 0x23, 0x24]

/-- A byte that selects a command is an opcode of the table (R101). -/
theorem toNat_mem_commandOpcodes_of_commandOf {op : Byte} {i : Instr} (h : commandOf op = .ok i) :
    op.toNat ∈ commandOpcodes := by
  unfold commandOf at h
  split at h
  -- The last arm is the reserved opcodes; every other arm is one opcode of the table.
  case h_16 => cases h
  all_goals
    next hop =>
      rw [hop]
      decide

/-- A number whose low byte is reserved is an illegal command: CERR alone is written (R102, R291). -/
theorem runCommand_of_reserved {v : Nat} (s : State) (hv : v % 256 ∉ commandOpcodes) :
    runCommand v s = .next (s.setCerr .illegalCommand) := by
  rcases runCommand_cases v s with ⟨i, hi, -⟩ | ⟨-, -, hrun⟩
  · have hmem := toNat_mem_commandOpcodes_of_commandOf hi
    rw [BitVec.toNat_ofNat] at hmem
    exact absurd hmem hv
  · exact hrun

/-- Settles O7: the step is a write to CMD, and what a reserved opcode leaves there is CERR 1 alone. -/
theorem reservedOpcodeSetsIllegalCommand : Obligations.ReservedOpcodeSetsIllegalCommand := by
  unfold Obligations.ReservedOpcodeSetsIllegalCommand
  intro s v rest hp hv
  calc step s = runCommand v (s.arrive rest) := by rw [step_of_pending hp, access_write_cmd]
    _ = .next ((s.arrive rest).setCerr .illegalCommand) := runCommand_of_reserved _ hv

end Sys2Proof.Machine
end

section
/-! PROOFS. The commands of the CRC engine, and that no two byte sequences one bit apart have one CRC (spec 40_crc.md
R143 to R145, R147). Every part of the circuit is injective: one iteration, a byte folded in, a whole sequence folded
in; so a difference once made in the register is never lost. -/

namespace Sys2Proof

/-- The bit an iteration shifts out comes back as the top bit: the feedback constant has its top bit set (R140). -/
theorem crcShift_topBit (c : U16) : (crcShift c).getLsbD 15 = c.getLsbD 0 := by
  have hshift : (c >>> 1).getLsbD 15 = false := by simp
  unfold crcShift
  split
  case isTrue h =>
    rw [BitVec.getLsbD_xor, hshift, h]
    decide
  case isFalse h => rw [hshift, Bool.eq_false_iff.mpr h]

/-- Only 0 is shifted to 0: the shifted-out bit is the result's top bit, and without it the iteration is a plain
shift. -/
theorem eq_zero_of_crcShift_eq_zero {c : U16} (h : crcShift c = 0) : c = 0 := by
  have hlow : c.getLsbD 0 = false := by
    rw [← crcShift_topBit, h]
    rfl
  have hrest : c >>> 1 = 0 := by rwa [crcShift, if_neg (Bool.eq_false_iff.mp hlow)] at h
  apply BitVec.eq_of_getLsbD_eq
  intro i _
  cases i with
  | zero => simpa using hlow
  | succ i => simpa [Nat.add_comm] using congrArg (·.getLsbD i) hrest

/-- One iteration is injective: it is linear, and only 0 goes to 0. -/
theorem crcShift_injective : Function.Injective crcShift := fun a b h => by
  have hdiff : crcShift (a ^^^ b) = 0 := by rw [crcShift_xor, h, BitVec.xor_self]; rfl
  exact BitVec.xor_eq_zero_iff.mp (eq_zero_of_crcShift_eq_zero hdiff)

theorem crcShifts_injective (n : Nat) : Function.Injective (crcShifts n) := by
  induction n with
  | zero => exact Function.injective_id
  | succ n ih => exact ih.comp crcShift_injective

/-- From different registers the same byte leads to different registers. -/
theorem crcStep_injective_left (b : Byte) : Function.Injective (crcStep · b) := fun _ _ h =>
  (BitVec.xor_left_inj _).mp (crcShifts_injective 8 h)

/-- From one register different bytes lead to different registers. -/
theorem crcStep_injective_right (c : U16) : Function.Injective (crcStep c) := fun a b h => by
  have hwide : a.setWidth 16 = b.setWidth 16 := (BitVec.xor_right_inj _).mp (crcShifts_injective 8 h)
  simpa using congrArg (BitVec.setWidth 8) hwide

/-- From different registers the same byte sequence leads to different registers. -/
theorem crcFrom_injective (l : List Byte) : Function.Injective (crcFrom · l) := by
  induction l with
  | nil => exact Function.injective_id
  | cons b l ih => exact ih.comp (crcStep_injective_left b)

/-- Two sequences that differ in one byte alone have one CRC exactly when that byte is the same. -/
theorem crc16_replace_byte_inj {before after : List Byte} {a b : Byte} :
    crc16 (before ++ [a] ++ after) = crc16 (before ++ [b] ++ after) ↔ a = b := by
  refine ⟨fun h => ?_, fun h => h ▸ rfl⟩
  simp only [crc16, crcFrom_append] at h
  exact crcStep_injective_right _ (crcFrom_injective after h)

/-- Flipping a bit changes a word. -/
theorem xor_twoPow_ne {w k : Nat} (x : BitVec w) (hk : k < w) : x ^^^ BitVec.twoPow w k ≠ x := fun h => by
  have hbit := congrArg (·.getLsbD k) h
  simp [hk] at hbit

/-- Settles O22: the flipped byte is another byte, and sequences that differ in one byte have different CRCs. -/
theorem crcDetectsEverySingleBitError : Obligations.CrcDetectsEverySingleBitError := by
  unfold Obligations.CrcDetectsEverySingleBitError
  intro before after b k hk h
  exact xor_twoPow_ne b hk (crc16_replace_byte_inj.mp h)

end Sys2Proof

namespace Sys2Proof.Machine

/-- A command that ends with a value for CRCACC writes it and CERR 0, and nothing else. -/
theorem complete_setCrcacc (s : State) (v : U16) :
    complete (s.setCrcacc v) = .next { s with crcacc := v, cstat := 0 } := rfl

theorem exec_crcInit (s : State) : exec .crcInit s = complete (s.setCrcacc Config.crcInit) := rfl
theorem exec_crcByte (s : State) : exec .crcByte s = complete (s.setCrcacc (crcStep s.crcacc s.crcin)) := rfl
theorem exec_crcBuf (s : State) : exec .crcBuf s = complete (s.setCrcacc (crc16 s.input)) := rfl

/-- Settles O17: each CRC command ends with its value for CRCACC, and CRC.INIT's is 0xFFFF. -/
theorem crcCommandsWriteTheAccumulator : Obligations.CrcCommandsWriteTheAccumulator := by
  unfold Obligations.CrcCommandsWriteTheAccumulator
  intro s
  exact ⟨(exec_crcInit s).trans (complete_setCrcacc s 0xFFFF), (exec_crcByte s).trans (complete_setCrcacc s _),
    (exec_crcBuf s).trans (complete_setCrcacc s _)⟩

end Sys2Proof.Machine
end

section
/-! PROOFS. The bit-field functions bit by bit, their laws, and the bit-field commands (spec 41_bitfield.md R160 to
R165). A word is fixed by its bits, so a law of the functions is a case split on where a bit lies: inside the window or
outside it. -/

namespace Sys2Proof

/-- The mask of a field is the bits below its width (R160). -/
theorem getLsbD_bitMask (w k : Nat) : (bitMask w).getLsbD k = (decide (k < 16) && decide (k < w)) := by
  rw [bitMask, BitVec.getLsbD_ofNat, Nat.testBit_two_pow_sub_one]

/-- Outside the range `get_bits` has no value (R163). -/
theorem getBits_eq_none {o w : Nat} (h : 16 < o + w) (r : U16) : getBits r o w = none := by
  simp [getBits, bitsInRange, h.not_ge]

/-- Outside the range `set_bits` has no value (R163). -/
theorem setBits_eq_none {o w : Nat} (h : 16 < o + w) (r v : U16) : setBits r o w v = none := by
  simp [setBits, bitsInRange, h.not_ge]

/-- In range `get_bits` is the window's bits, moved down to bit 0 (R160). -/
theorem getBits_eq_some_iff {o w : Nat} (h : o + w ≤ 16) (r g : U16) :
    getBits r o w = some g ↔ ∀ k, k < 16 → g.getLsbD k = (decide (k < w) && r.getLsbD (o + k)) := by
  have hrange : bitsInRange o w = true := decide_eq_true h
  rw [getBits, if_pos hrange, Option.some_inj, eq_comm, BitVec.eq_of_getLsbD_eq_iff]
  refine forall₂_congr fun k hk => ?_
  rw [BitVec.getLsbD_and, BitVec.getLsbD_ushiftRight, getLsbD_bitMask, decide_eq_true hk, Bool.true_and, Bool.and_comm]

/-- In range `set_bits` is the value's low bits inside the window and the register outside it (R161). -/
theorem setBits_eq_some_iff {o w : Nat} (h : o + w ≤ 16) (r v q : U16) :
    setBits r o w v = some q ↔
      ∀ k, k < 16 → q.getLsbD k = if o ≤ k ∧ k < o + w then v.getLsbD (k - o) else r.getLsbD k := by
  have hrange : bitsInRange o w = true := decide_eq_true h
  rw [setBits, if_pos hrange, Option.some_inj, eq_comm, BitVec.eq_of_getLsbD_eq_iff]
  refine forall₂_congr fun k hk => ?_
  have hlow : k - o < 16 := by omega
  simp only [BitVec.getLsbD_or, BitVec.getLsbD_and, BitVec.getLsbD_not, BitVec.getLsbD_shiftLeft, getLsbD_bitMask, hk,
    hlow]
  by_cases hbelow : k < o
  · simp [hbelow, hbelow.not_ge]
  · have hwindow : k < o + w ↔ k - o < w := by omega
    by_cases hin : k - o < w
    · simp [hbelow, hwindow, hin, Nat.le_of_not_lt hbelow]
    · simp [hbelow, hwindow, hin]

/-- In range `get_bits` is a quotient cut to the width, as numbers (R160). -/
theorem getBits_eq_ofNat {o w : Nat} (h : o + w ≤ 16) (r : U16) :
    getBits r o w = some (BitVec.ofNat 16 (r.toNat / 2 ^ o % 2 ^ w)) := by
  rw [getBits_eq_some_iff h]
  intro k hk
  rw [BitVec.getLsbD_ofNat, Nat.testBit_mod_two_pow, Nat.testBit_div_two_pow, decide_eq_true hk, Bool.true_and,
    BitVec.testBit_toNat, Nat.add_comm]

/-- Law (a): a field that was set holds the value cut to the width (R162). -/
theorem getBits_of_setBits {r v q : U16} {o w : Nat} (h : o + w ≤ 16) (hq : setBits r o w v = some q) :
    getBits q o w = some (BitVec.ofNat 16 (v.toNat % 2 ^ w)) := by
  rw [setBits_eq_some_iff h] at hq
  rw [getBits_eq_some_iff h]
  intro k hk
  rw [BitVec.getLsbD_ofNat, Nat.testBit_mod_two_pow, decide_eq_true hk, Bool.true_and, BitVec.testBit_toNat]
  by_cases hin : k < w
  · rw [hq (o + k) (by omega), if_pos (by omega), Nat.add_sub_cancel_left]
  · simp [hin]

/-- Law (b): a bit outside the window is preserved (R162). -/
theorem getLsbD_of_setBits_outside {r v q : U16} {o w p : Nat} (h : o + w ≤ 16) (hq : setBits r o w v = some q)
    (hp : p < 16) (hout : p < o ∨ o + w ≤ p) : q.getLsbD p = r.getLsbD p := by
  rw [(setBits_eq_some_iff h r v q).mp hq p hp, if_neg (by omega)]

/-- Law (c): a field set to what it holds leaves the register as it was (R162). -/
theorem setBits_of_getBits {r g : U16} {o w : Nat} (h : o + w ≤ 16) (hg : getBits r o w = some g) :
    setBits r o w g = some r := by
  rw [getBits_eq_some_iff h] at hg
  rw [setBits_eq_some_iff h]
  intro k hk
  split
  case isTrue hin =>
    have hlow : k - o < w := by omega
    rw [hg (k - o) (by omega), decide_eq_true hlow, Bool.true_and, Nat.add_sub_cancel' hin.1]
  case isFalse => rfl

/-- Law (d), get: the whole register as a field (R162). -/
theorem getBits_whole (r : U16) : getBits r 0 16 = some r := by
  rw [getBits_eq_some_iff (by decide)]
  intro k hk
  rw [decide_eq_true hk, Bool.true_and, Nat.zero_add]

/-- Law (d), set: the whole register as a field (R162). -/
theorem setBits_whole (r v : U16) : setBits r 0 16 v = some v := by
  rw [setBits_eq_some_iff (by decide)]
  intro k hk
  rw [if_pos (by omega), Nat.sub_zero]

/-- Law (e), get: a field of width 0 holds 0 (R162). -/
theorem getBits_width_zero {o : Nat} (h : o ≤ 16) (r : U16) : getBits r o 0 = some 0 := by
  rw [getBits_eq_some_iff h]
  simp

/-- Law (e), set: setting a field of width 0 changes nothing (R162). -/
theorem setBits_width_zero {o : Nat} (h : o ≤ 16) (r v : U16) : setBits r o 0 v = some r := by
  rw [setBits_eq_some_iff h]
  intro k _
  rw [if_neg (by omega)]

/-- In range `set_bits` has a value (R163). -/
theorem exists_setBits_eq_some {o w : Nat} (h : o + w ≤ 16) (r v : U16) : ∃ q, setBits r o w v = some q :=
  ⟨_, if_pos (decide_eq_true h)⟩

/-- Settles O26, law by law. -/
theorem bitFieldLaws : Obligations.BitFieldLaws := by
  unfold Obligations.BitFieldLaws
  intro r v o w h
  have ho : o ≤ 16 := by omega
  obtain ⟨q, hq⟩ := exists_setBits_eq_some h r v
  have hcut : (BitVec.ofNat 16 (v.toNat % 2 ^ w)).toNat = v.toNat % 2 ^ w := by
    rw [BitVec.toNat_ofNat, Nat.mod_eq_of_lt ((Nat.mod_le _ _).trans_lt v.isLt)]
  have hget := getBits_eq_ofNat h r
  exact ⟨⟨q, _, hq, getBits_of_setBits h hq, hcut, fun _ => getLsbD_of_setBits_outside h hq⟩,
    ⟨_, hget, setBits_of_getBits h hget⟩, getBits_whole r, setBits_whole r v, getBits_width_zero ho r,
    setBits_width_zero ho r v⟩

end Sys2Proof

namespace Sys2Proof.Machine

theorem exec_bfGet (s : State) : exec .bfGet s = finishBitField (getBits s.bfr s.bfOffset s.bfWidth) s := rfl
theorem exec_bfSet (s : State) : exec .bfSet s = finishBitField (setBits s.bfr s.bfOffset s.bfWidth s.bfv) s := rfl

/-- A bit-field command that has a value writes BFQ and CERR 0, and nothing else (R163). -/
theorem finishBitField_some (v : U16) (s : State) :
    finishBitField (some v) s = .next { s with bfq := v, cstat := 0 } := rfl

/-- A bit-field command without a value writes CERR 2, and nothing else (R163). -/
theorem finishBitField_none (s : State) : finishBitField none s = .next { s with cstat := 2 } := rfl

/-- OFFSET is the low byte of BFPOS (R41). -/
theorem State.bfOffset_eq (s : State) : s.bfOffset = s.bfpos.toNat % 256 := by
  rw [State.bfOffset, BitVec.extractLsb'_toNat, Nat.shiftRight_zero]

/-- WIDTH is the high byte of BFPOS (R41). -/
theorem State.bfWidth_eq (s : State) : s.bfWidth = s.bfpos.toNat / 256 := by
  have hlt : s.bfpos.toNat < 65536 := s.bfpos.isLt
  rw [State.bfWidth, BitVec.extractLsb'_toNat, Nat.shiftRight_eq_div_pow]
  omega

/-- Settles O23: BF.GET ends with `get_bits` of its operands, which is the quotient cut to the width or has no
value. -/
theorem bfGetReturnsTheField : Obligations.BfGetReturnsTheField := by
  unfold Obligations.BfGetReturnsTheField
  intro s o w ho hw
  rw [exec_bfGet, s.bfOffset_eq, s.bfWidth_eq, ← ho, ← hw]
  split
  case isTrue h => rw [getBits_eq_ofNat h, finishBitField_some]
  case isFalse h => rw [getBits_eq_none (Nat.lt_of_not_le h), finishBitField_none]

/-- Settles O24: BF.SET ends with `set_bits` of its operands, whose bits are known, or which has no value. -/
theorem bfSetReplacesTheWindow : Obligations.BfSetReplacesTheWindow := by
  unfold Obligations.BfSetReplacesTheWindow
  intro s o w ho hw
  rw [exec_bfSet, s.bfOffset_eq, s.bfWidth_eq, ← ho, ← hw]
  refine ⟨fun h => ?_, fun h => ?_⟩
  · obtain ⟨q, hq⟩ := exists_setBits_eq_some h s.bfr s.bfv
    exact ⟨q, by rw [hq, finishBitField_some], (setBits_eq_some_iff h _ _ _).mp hq⟩
  · rw [setBits_eq_none h, finishBitField_none]

/-- Settles O25: the range check is in what each of the two commands answers. -/
theorem bitFieldOutOfRangeIsRejected : Obligations.BitFieldOutOfRangeIsRejected := by
  unfold Obligations.BitFieldOutOfRangeIsRejected
  intro s c hc
  rcases hc with rfl | rfl
  · have hget := bfGetReturnsTheField s _ _ rfl rfl
    exact ⟨fun h => by rw [hget, if_neg h.not_ge], fun h => ⟨_, by rw [hget, if_pos h]⟩⟩
  · obtain ⟨hin, hout⟩ := bfSetReplacesTheWindow s _ _ rfl rfl
    refine ⟨hout, fun h => ?_⟩
    obtain ⟨q, hq, -⟩ := hin h
    exact ⟨q, hq⟩

end Sys2Proof.Machine
end

section
/-! PROOFS. The request encoders: their lengths and closed form, the encoder commands of both framings as equations, and
STD.ADDR (spec 42_std_codec.md R180 to R188, 43_lxp_codec.md R222 to R227). -/

namespace Sys2Proof

/-! ### Closed frames -/

/-- The trailer of a closed frame stands right after its body, low byte first (R33). -/
theorem le16_closeFrame_length (b : List Byte) : le16 (closeFrame b) b.length = crc16 b := by
  simpa using closeFrame_trailer b

/-- What stands before the trailer of a closed frame is its body (R33). -/
@[simp] theorem closeFrame_take_length (b : List Byte) : (closeFrame b).take b.length = b := by
  simpa using closeFrame_take b

/-- Value `i` of a data segment, at whatever bytes the segment is followed by (R110). -/
theorem get16_flatMap_put16 (fr : Framing) (vs : List U16) (r : List Byte) {i : Nat} (h : i < vs.length) :
    get16 fr (vs.flatMap (put16 fr) ++ r) (2 * i) = vs.getD i 0 := by
  have hread : (List.range vs.length).map (fun i => get16 fr (vs.flatMap (put16 fr) ++ r) (2 * i)) = vs := by
    have e := valuesOf_eq_map fr (vs.flatMap (put16 fr)) r
    rw [valuesOf_flatMap, flatMap_put16_length, Nat.mul_div_cancel_left _ (by decide)] at e
    exact e.symm
  conv_rhs => rw [← hread]
  simp [h]

/-! ### The lengths of the requests -/

theorem stdEncRead_length (a : Byte) (fsel : BitVec 1) (start count : U16) :
    (stdEncRead a fsel start count).length = 8 := rfl

theorem stdEncWrite1_length (a : Byte) (register value : U16) : (stdEncWrite1 a register value).length = 8 := rfl

theorem stdEncWriten_length (a : Byte) (start : U16) (vs : List U16) :
    (stdEncWriten a start vs).length = 9 + 2 * vs.length := by
  have := Laws.flatMap_putBe16_length vs
  simp only [stdEncWriten, closeFrame_length, List.length_append, List.length_cons, List.length_nil, putBe16_length]
  omega

section
variable {ser : HeaderSerials} {m : SerialMode}

/-- A Proprietary header takes the `H` bytes of the strap (R107, R220). -/
theorem lxpHeader_length (a fb : Byte) (h : ser.fits m = true) : (lxpHeader a fb ser).length = m.headerBytes := by
  have := headerSerialBytes_length h
  simp only [lxpHeader, List.length_append, List.length_cons, List.length_nil]
  omega

theorem lxpEncRead_length (a : Byte) (fsel : BitVec 1) (start count : U16) (h : ser.fits m = true) :
    (lxpEncRead a fsel ser start count).length = m.headerBytes + 6 := by
  simp [lxpEncRead, lxpHeader_length _ _ h]

theorem lxpEncWrite1_length (a : Byte) (register value : U16) (h : ser.fits m = true) :
    (lxpEncWrite1 a ser register value).length = m.headerBytes + 6 := by
  simp [lxpEncWrite1, lxpHeader_length _ _ h]

theorem lxpEncWriten_length (a : Byte) (start : U16) (vs : List U16) (h : ser.fits m = true) :
    (lxpEncWriten a ser start vs).length = m.headerBytes + 7 + 2 * vs.length := by
  have := Laws.flatMap_putLe16_length vs
  simp only [lxpEncWriten, closeFrame_length, List.length_append, List.length_cons, List.length_nil, putLe16_length,
    lxpHeader_length _ _ h]
  omega

end

/-! ### The write-multiple request of the Standard framing -/

/-- The seven bytes before the values of a Standard write-multiple request of `n` values (R186). -/
def stdWriteManyHead (a : Byte) (start : U16) (n : Nat) : List Byte :=
  [a, 0x10] ++ putBe16 start ++ putBe16 (BitVec.ofNat 16 n) ++ [BitVec.ofNat 8 (2 * n)]

theorem stdEncWriten_eq (a : Byte) (start : U16) (vs : List U16) :
    stdEncWriten a start vs = closeFrame (stdWriteManyHead a start vs.length ++ vs.flatMap putBe16) := rfl

/-- A write-multiple request begins with its header, START, COUNT and byteCount (R186). -/
theorem stdEncWriten_take_head (a : Byte) (start : U16) (vs : List U16) :
    (stdEncWriten a start vs).take 7 = stdWriteManyHead a start vs.length := rfl

/-- Value `i` of a write-multiple request stands high byte first at byte `7 + 2 i` (R186). -/
theorem be16_stdEncWriten (a : Byte) (start : U16) (vs : List U16) {i : Nat} (h : i < vs.length) :
    be16 (stdEncWriten a start vs) (7 + 2 * i) = vs.getD i 0 := by
  have hhead : (stdWriteManyHead a start vs.length).length = 7 := rfl
  calc be16 (stdEncWriten a start vs) (7 + 2 * i)
      = get16 .std (stdWriteManyHead a start vs.length ++
          (vs.flatMap putBe16 ++ putLe16 (crc16 (stdWriteManyHead a start vs.length ++ vs.flatMap putBe16))))
          (7 + 2 * i) := by rw [stdEncWriten_eq, closeFrame, List.append_assoc]; rfl
    _ = get16 .std (vs.flatMap (put16 .std) ++ _) (2 * i) := by
        rw [get16_append_right _ _ (by omega), hhead, Nat.add_sub_cancel_left]; rfl
    _ = vs.getD i 0 := get16_flatMap_put16 .std vs _ h

/-- The last two bytes of a write-multiple request are the CRC of all bytes before them (R186, R188). -/
theorem le16_stdEncWriten (a : Byte) (start : U16) (vs : List U16) :
    le16 (stdEncWriten a start vs) (7 + 2 * vs.length) =
      crc16 ((stdEncWriten a start vs).take (7 + 2 * vs.length)) := by
  have hbody : (stdWriteManyHead a start vs.length ++ vs.flatMap putBe16).length = 7 + 2 * vs.length := by
    rw [List.length_append, Laws.flatMap_putBe16_length]; rfl
  rw [stdEncWriten_eq, ← hbody, closeFrame_take_length, le16_closeFrame_length]

/-! ### The address of an identifier -/

/-- Byte 0 of the identifier, with 1 for a zero byte or an empty identifier (R180). -/
theorem resolveAddress_eq (id : List Byte) :
    resolveAddress id = if id = [] ∨ id[0]? = some 0 then 1 else byteAt id 0 := by
  cases id with
  | nil => rfl
  | cons b rest => simp [resolveAddress]

end Sys2Proof

namespace Sys2Proof.Machine

/-! ### How an encoder command ends -/

/-- A built frame goes to OBUF with its length in OLEN and CERR 0, and nothing else changes (R183). -/
theorem emitFrame_eq (f : List Byte) (s : State) :
    emitFrame f s = .next { s with obuf := cellsOf f, olen := BitVec.ofNat 16 f.length, cstat := 0 } := rfl

/-- A rejected write-multiple leaves no frame and CERR 2, and nothing else changes (R187). -/
theorem rejectFrame_eq (s : State) : rejectFrame s = .next { s with obuf := [], olen := 0, cstat := 2 } := rfl

/-! ### The encoder commands -/

theorem exec_stdAddr (s : State) : exec .stdAddr s = complete (s.setAddr (resolveAddress s.input)) := rfl

theorem exec_stdRd (s : State) : exec .stdRd s = emitFrame (stdEncRead s.addr s.fsel s.start s.count) s := rfl

theorem exec_stdWr1 (s : State) : exec .stdWr1 s = emitFrame (stdEncWrite1 s.addr s.start s.count) s := rfl

theorem exec_lxpRd (s : State) :
    exec .lxpRd s = emitFrame (lxpEncRead s.addr s.fsel s.headerSerials s.start s.count) s := rfl

theorem exec_lxpWr1 (s : State) :
    exec .lxpWr1 s = emitFrame (lxpEncWrite1 s.addr s.headerSerials s.start s.count) s := rfl

theorem State.countInRange_iff (s : State) : s.countInRange = true ↔ s.count.toNat ≤ 127 := decide_eq_true_iff

theorem exec_stdWrn_of_le {s : State} (h : s.count.toNat ≤ 127) :
    exec .stdWrn s = emitFrame (stdEncWriten s.addr s.start s.writeValues) s :=
  if_pos (s.countInRange_iff.mpr h)

theorem exec_stdWrn_of_lt {s : State} (h : 127 < s.count.toNat) : exec .stdWrn s = rejectFrame s :=
  if_neg (mt s.countInRange_iff.mp h.not_ge)

theorem exec_lxpWrn_of_le {s : State} (h : s.count.toNat ≤ 127) :
    exec .lxpWrn s = emitFrame (lxpEncWriten s.addr s.headerSerials s.start s.writeValues) s :=
  if_pos (s.countInRange_iff.mpr h)

theorem exec_lxpWrn_of_lt {s : State} (h : 127 < s.count.toNat) : exec .lxpWrn s = rejectFrame s :=
  if_neg (mt s.countInRange_iff.mp h.not_ge)

/-! ### The operands -/

@[simp] theorem State.writeValues_length (s : State) : s.writeValues.length = s.count.toNat := by
  simp [State.writeValues]

/-- Where WVAL holds a value, that is the value written (R49). -/
theorem State.writeValues_getElem? {s : State} {i : Nat} {v : U16} (hi : i < s.count.toNat)
    (hv : readCell s.wval i = some v) : s.writeValues[i]? = some v := by
  simp [State.writeValues, hi, u16Cell, hv]

/-- The serials of a request are those the strap has room for (R220). -/
theorem State.headerSerials_fits (s : State) : s.headerSerials.fits s.serialMode = true :=
  selectSerials_fits s.serialMode s.bser s.dser

/-! ### The obligations -/

/-- Settles O27: STD.ADDR ends with `resolve_address` of the input. -/
theorem stdAddrResolvesTheAddress : Obligations.StdAddrResolvesTheAddress := by
  unfold Obligations.StdAddrResolvesTheAddress
  intro s
  rw [exec_stdAddr, resolveAddress_eq]
  rfl

/-- Settles O28: each command emits its encoder's frame, whose body is the six bytes. -/
theorem stdShortRequestBytes : Obligations.StdShortRequestBytes := by
  unfold Obligations.StdShortRequestBytes
  intro s fn c hc
  refine ⟨_, rfl, ?_⟩
  rcases hc with ⟨rfl, rfl⟩ | ⟨rfl, rfl⟩
  · rw [exec_stdRd, emitFrame_eq, stdEncRead_length]
    rfl
  · rw [exec_stdWr1, emitFrame_eq, stdEncWrite1_length]
    rfl

/-- Settles O29: in range, the frame is `std_enc_writen` of the values WVAL yields; out of range, it is rejected. -/
theorem stdWriteManyRequestBytes : Obligations.StdWriteManyRequestBytes := by
  unfold Obligations.StdWriteManyRequestBytes
  rintro s n rfl
  refine ⟨fun hle => ?_, fun hlt => by rw [exec_stdWrn_of_lt hlt, rejectFrame_eq]⟩
  have hlen : s.writeValues.length = s.count.toNat := s.writeValues_length
  have hframe : (stdEncWriten s.addr s.start s.writeValues).length = 9 + 2 * s.count.toNat := by
    rw [stdEncWriten_length, hlen]
  refine ⟨stdEncWriten s.addr s.start s.writeValues, s.writeValues, ?_, hframe, hlen,
    fun i v hi hv => State.writeValues_getElem? hi hv, ?_, fun i hi => ?_, ?_⟩
  · rw [exec_stdWrn_of_le hle, emitFrame_eq, hframe]
  · rw [stdEncWriten_take_head, hlen, stdWriteManyHead, BitVec.ofNat_toNat, BitVec.setWidth_eq]
    rfl
  · exact be16_stdEncWriten _ _ _ (hlen ▸ hi)
  · rw [← hlen, le16_stdEncWriten]

/-- What an encoder command does, said once: it emits a closed frame that fits the buffer, or rejects a
write-multiple. -/
theorem exec_encoder_cases {i : Instr} (s : State) (hi : i ∈ [.stdRd, .stdWr1, .stdWrn, .lxpRd, .lxpWr1, .lxpWrn]) :
    (∃ b, (closeFrame b).length ≤ 512 ∧ exec i s = emitFrame (closeFrame b) s) ∨ exec i s = rejectFrame s := by
  have hfits := s.headerSerials_fits
  have hvals := s.writeValues_length
  obtain ⟨-, hH⟩ := headerBytes_bounds s.serialMode
  cases i
  case stdRd => exact .inl ⟨_, (stdEncRead_length ..).trans_le (by decide), exec_stdRd s⟩
  case stdWr1 => exact .inl ⟨_, (stdEncWrite1_length ..).trans_le (by decide), exec_stdWr1 s⟩
  case lxpRd => exact .inl ⟨_, (lxpEncRead_length _ _ _ _ hfits).trans_le (by omega), exec_lxpRd s⟩
  case lxpWr1 => exact .inl ⟨_, (lxpEncWrite1_length _ _ _ hfits).trans_le (by omega), exec_lxpWr1 s⟩
  case stdWrn =>
    rcases le_or_gt s.count.toNat 127 with hle | hlt
    · exact .inl ⟨_, (stdEncWriten_length ..).trans_le (by omega), exec_stdWrn_of_le hle⟩
    · exact .inr (exec_stdWrn_of_lt hlt)
  case lxpWrn =>
    rcases le_or_gt s.count.toNat 127 with hle | hlt
    · exact .inl ⟨_, (lxpEncWriten_length _ _ _ hfits).trans_le (by omega), exec_lxpWrn_of_le hle⟩
    · exact .inr (exec_lxpWrn_of_lt hlt)
  all_goals simp at hi

/-- Settles O56: what an encoder emits is a closed frame, whose last two bytes are its CRC, and a rejection leaves
OLEN 0. -/
theorem encodedFramesCarryTheirCrc : Obligations.EncodedFramesCarryTheirCrc := by
  unfold Obligations.EncodedFramesCarryTheirCrc
  intro i s t hi h
  rcases exec_encoder_cases s hi with ⟨b, hlen, he⟩ | he
  · obtain rfl := emitFrame_next (he.symm.trans h)
    refine ⟨closeFrame b, rfl, ?_, .inr ⟨by simp, by rw [closeFrame_take, closeFrame_trailer]⟩⟩
    exact (BitVec.toNat_ofNat ..).trans (Nat.mod_eq_of_lt (hlen.trans_lt (by decide)))
  · obtain rfl := rejectFrame_next (he.symm.trans h)
    exact ⟨[], rfl, rfl, .inl rfl⟩

end Sys2Proof.Machine
end

section
/-! PROOFS. The request frames of the Proprietary framing, byte by byte (spec 43_lxp_codec.md R220 to R227). -/

namespace Sys2Proof

/-! ### The two short requests -/

/-- What stands before the trailer of a read or write-single request, `x` and `y` its two u16 fields (R222, R223). -/
def lxpShortBody (a fb : Byte) (ser : HeaderSerials) (x y : U16) : List Byte :=
  [a, fb] ++ headerSerialBytes ser ++ [lowByte x, highByte x, lowByte y, highByte y]

theorem lxpEncRead_eq (a : Byte) (fsel : BitVec 1) (ser : HeaderSerials) (start count : U16) :
    lxpEncRead a fsel ser start count = closeFrame (lxpShortBody a (readFunction fsel) ser start count) := by
  simp [lxpEncRead, lxpShortBody, lxpHeader, putLe16]

theorem lxpEncWrite1_eq (a : Byte) (ser : HeaderSerials) (register value : U16) :
    lxpEncWrite1 a ser register value = closeFrame (lxpShortBody a 0x06 ser register value) := by
  simp [lxpEncWrite1, lxpShortBody, lxpHeader, putLe16]

theorem lxpShortBody_length {ser : HeaderSerials} {m : SerialMode} (h : ser.fits m = true) (a fb : Byte) (x y : U16) :
    (lxpShortBody a fb ser x y).length = m.headerBytes + 4 := by
  have := headerSerialBytes_length h
  simp only [lxpShortBody, List.length_append, List.length_cons, List.length_nil]
  omega

/-! ### The write-multiple request -/

/-- The bytes before the values of a Proprietary write-multiple request of `n` values (R224). -/
def lxpWriteManyHead (a : Byte) (ser : HeaderSerials) (start : U16) (n : Nat) : List Byte :=
  [a, 0x10] ++ headerSerialBytes ser ++ [lowByte start, highByte start, lowByte (BitVec.ofNat 16 n),
    highByte (BitVec.ofNat 16 n), BitVec.ofNat 8 (2 * n)]

theorem lxpEncWriten_eq (a : Byte) (ser : HeaderSerials) (start : U16) (vs : List U16) :
    lxpEncWriten a ser start vs =
      closeFrame (lxpWriteManyHead a ser start vs.length ++ vs.flatMap putLe16) := by
  simp [lxpEncWriten, lxpWriteManyHead, lxpHeader, putLe16, countField, byteCount]

section
variable {ser : HeaderSerials} {m : SerialMode} (h : ser.fits m = true) (a : Byte) (start : U16)
include h

theorem lxpWriteManyHead_length (n : Nat) : (lxpWriteManyHead a ser start n).length = m.headerBytes + 5 := by
  have := headerSerialBytes_length h
  simp only [lxpWriteManyHead, List.length_append, List.length_cons, List.length_nil]
  omega

/-- A write-multiple request begins with its header, START, COUNT and byteCount (R224). -/
theorem lxpEncWriten_take_head (vs : List U16) :
    (lxpEncWriten a ser start vs).take (m.headerBytes + 5) = lxpWriteManyHead a ser start vs.length := by
  rw [lxpEncWriten_eq, closeFrame, List.append_assoc, ← lxpWriteManyHead_length h a start vs.length, List.take_left]

/-- Value `i` of a write-multiple request stands low byte first at byte `H + 5 + 2 i` (R224). -/
theorem le16_lxpEncWriten (vs : List U16) {i : Nat} (hi : i < vs.length) :
    le16 (lxpEncWriten a ser start vs) (m.headerBytes + 5 + 2 * i) = vs.getD i 0 := by
  have hhead := lxpWriteManyHead_length h a start vs.length
  calc le16 (lxpEncWriten a ser start vs) (m.headerBytes + 5 + 2 * i)
      = get16 (.lxp m) (lxpWriteManyHead a ser start vs.length ++ (vs.flatMap (put16 (.lxp m)) ++
          putLe16 (crc16 (lxpWriteManyHead a ser start vs.length ++ vs.flatMap putLe16))))
          (m.headerBytes + 5 + 2 * i) := by rw [lxpEncWriten_eq, closeFrame, List.append_assoc]; rfl
    _ = get16 (.lxp m) (vs.flatMap (put16 (.lxp m)) ++ _) (2 * i) := by
        rw [get16_append_right _ _ (by omega), hhead, Nat.add_sub_cancel_left]
    _ = vs.getD i 0 := get16_flatMap_put16 (.lxp m) vs _ hi

/-- The last two bytes of a write-multiple request are the CRC of all bytes before them (R188, R224). -/
theorem le16_lxpEncWriten_trailer (vs : List U16) :
    le16 (lxpEncWriten a ser start vs) (m.headerBytes + 5 + 2 * vs.length) =
      crc16 ((lxpEncWriten a ser start vs).take (m.headerBytes + 5 + 2 * vs.length)) := by
  have hbody : (lxpWriteManyHead a ser start vs.length ++ vs.flatMap putLe16).length =
      m.headerBytes + 5 + 2 * vs.length := by
    rw [List.length_append, lxpWriteManyHead_length h, Laws.flatMap_putLe16_length]
  rw [lxpEncWriten_eq, ← hbody, closeFrame_take_length, le16_closeFrame_length]

end

end Sys2Proof

namespace Sys2Proof.Machine

/-- Settles O30: each command emits its encoder's frame, whose body holds the serials the strap selects. -/
theorem lxpShortRequestBytes : Obligations.LxpShortRequestBytes := by
  unfold Obligations.LxpShortRequestBytes
  intro s fn c ser h hc hstrap
  obtain ⟨rfl, rfl⟩ : ser = headerSerialBytes s.headerSerials ∧ h = s.serialMode.headerBytes := by
    rcases hstrap with ⟨hm, rfl, rfl⟩ | ⟨hm, rfl, rfl⟩ | ⟨hm, rfl, rfl⟩
    all_goals
      rw [State.headerSerials, hm]
      exact ⟨rfl, rfl⟩
  have hlen := lxpShortBody_length s.headerSerials_fits s.addr fn s.start s.count
  have hexec : exec c s = emitFrame (closeFrame (lxpShortBody s.addr fn s.headerSerials s.start s.count)) s := by
    rcases hc with ⟨rfl, rfl⟩ | ⟨rfl, rfl⟩
    · exact (exec_lxpRd s).trans (congrArg (emitFrame · s) (lxpEncRead_eq ..))
    · exact (exec_lxpWr1 s).trans (congrArg (emitFrame · s) (lxpEncWrite1_eq ..))
  refine ⟨_, _, rfl, rfl, hlen, ?_⟩
  rw [hexec, emitFrame_eq, closeFrame_length, hlen]
  rfl

/-- Settles O31: in range, the frame is `lxp_enc_writen` of the values WVAL yields; out of range, it is rejected. -/
theorem lxpWriteManyRequestBytes : Obligations.LxpWriteManyRequestBytes := by
  unfold Obligations.LxpWriteManyRequestBytes
  rintro s n h rfl hh
  obtain rfl : h = s.serialMode.headerBytes := hh
  refine ⟨fun hle => ?_, fun hlt => by rw [exec_lxpWrn_of_lt hlt, rejectFrame_eq]⟩
  have hfits := s.headerSerials_fits
  have hlen : s.writeValues.length = s.count.toNat := s.writeValues_length
  have hframe : (lxpEncWriten s.addr s.headerSerials s.start s.writeValues).length =
      s.serialMode.headerBytes + 7 + 2 * s.count.toNat := by
    rw [lxpEncWriten_length _ _ _ hfits, hlen]
  refine ⟨lxpEncWriten s.addr s.headerSerials s.start s.writeValues, s.writeValues, ?_, hframe, hlen,
    fun i v hi hv => State.writeValues_getElem? hi hv, ?_, fun i hi => ?_, ?_⟩
  · rw [exec_lxpWrn_of_le hle, emitFrame_eq, hframe]
  · rw [lxpEncWriten_take_head hfits, hlen, lxpWriteManyHead, BitVec.ofNat_toNat, BitVec.setWidth_eq,
      State.headerSerials]
    cases s.serialMode <;> rfl
  · exact le16_lxpEncWriten hfits _ _ _ (hlen ▸ hi)
  · rw [← hlen, le16_lxpEncWriten_trailer hfits]

end Sys2Proof.Machine
end

section
/-! PROOFS. The decision table of both decoders, row by row, and which buffers are Exception responses (spec
44_classifier.md R263, R264, R269, R270). -/

namespace Sys2Proof

/-- A buffer passes the checksum test if the CRC of all but its last two bytes stands in those two (R33, R263). -/
theorem crcOk_iff (buf : List Byte) : crcOk buf = true ↔ crc16 (buf.take (buf.length - 2)) = le16 buf (buf.length - 2) :=
  decide_eq_true_iff

end Sys2Proof

namespace Sys2Proof.Machine

/-! ### The codes of a diagnosis -/

theorem diagNeedMore_iff (d : Diag) :
    diagNeedMore d = true ↔ d = .tooShort ∨ d = .lengthExceedsBuffer ∨ d = .echoTooShort := by
  cases d <;> simp [diagNeedMore]

theorem diagKind_eq_exception_iff (d : Diag) : diagKind d = .exception ↔ d = .exceptionResponse := by
  cases d <;> simp [diagKind]

@[simp] theorem headerOf_diag (fr : Framing) (buf : List Byte) (d : Diag) : (headerOf fr buf d).diag = d := rfl

/-! ### The commands -/

/-- STD.DEC and LXP.DEC report what their framing's decoder makes of the input (R198, R237). -/
theorem exec_decoder {s : State} {c : Instr} {fr : Framing}
    (h : (c = .stdDec ∧ fr = .std) ∨ (c = .lxpDec ∧ fr = .lxp s.serialMode)) :
    exec c s = report (decodeResponse fr s.input) s := by
  rcases h with ⟨rfl, rfl⟩ | ⟨rfl, rfl⟩ <;> rfl

/-! ### The rows of the decision table (R270)

Each row's conditions are those that no row above it meets, so each one selects its branch of the decoder. -/

section Rows

variable {fr : Framing} {buf : List Byte}

theorem decodeResponse_of_short (hl : buf.length < headerLength fr + 3) :
    decodeResponse fr buf = { diag := .tooShort } :=
  if_pos hl

theorem decodeResponse_of_badCrc (hl : headerLength fr + 3 ≤ buf.length) (hc : crcOk buf = false) :
    decodeResponse fr buf = headerOf fr buf .crcMismatch := by
  rw [decodeResponse, if_neg hl.not_gt, if_pos hc, if_pos hc, ite_self]

theorem decodeResponse_of_flag (hl : headerLength fr + 3 ≤ buf.length) (hc : crcOk buf = true)
    (hx : (byteAt buf 1).getLsbD 7 = true) :
    decodeResponse fr buf = { headerOf fr buf .exceptionResponse with exc := byteAt buf (headerLength fr) } := by
  rw [decodeResponse, if_neg hl.not_gt, if_pos hx, if_neg (ne_false_of_eq_true hc)]

section PastTheChecks

variable (hl : headerLength fr + 3 ≤ buf.length) (hc : crcOk buf = true) (hx : (byteAt buf 1).getLsbD 7 = false)
include hl hc hx

theorem decodeResponse_of_read (hf : (byteAt buf 1).toNat % 128 = 3 ∨ (byteAt buf 1).toNat % 128 = 4) :
    decodeResponse fr buf = decodeRead fr buf := by
  rw [decodeResponse, if_neg hl.not_gt, if_neg (ne_true_of_eq_false hx), if_neg (ne_false_of_eq_true hc), func_toNat]
  rcases hf with hf | hf <;> simp only [hf]

theorem decodeResponse_of_echo (hf : (byteAt buf 1).toNat % 128 = 6 ∨ (byteAt buf 1).toNat % 128 = 16) :
    decodeResponse fr buf = decodeEcho fr buf := by
  rw [decodeResponse, if_neg hl.not_gt, if_neg (ne_true_of_eq_false hx), if_neg (ne_false_of_eq_true hc), func_toNat]
  rcases hf with hf | hf <;> simp only [hf]

theorem decodeResponse_of_unsupported (h3 : (byteAt buf 1).toNat % 128 ≠ 3) (h4 : (byteAt buf 1).toNat % 128 ≠ 4)
    (h6 : (byteAt buf 1).toNat % 128 ≠ 6) (h16 : (byteAt buf 1).toNat % 128 ≠ 16) :
    decodeResponse fr buf = headerOf fr buf .unsupportedFunction := by
  rw [decodeResponse, if_neg hl.not_gt, if_neg (ne_true_of_eq_false hx), if_neg (ne_false_of_eq_true hc), func_toNat]
  split
  · exact absurd ‹_› h3
  · exact absurd ‹_› h4
  · exact absurd ‹_› h6
  · exact absurd ‹_› h16
  · rfl

end PastTheChecks

/-! ### The further length test of a read response and of an echo -/

theorem decodeRead_diag_of_short (h : buf.length < headerLength fr + 1 + (byteAt buf (headerLength fr)).toNat + 2) :
    (decodeRead fr buf).diag = .lengthExceedsBuffer := by
  rcases decodeRead_cases fr buf with ⟨-, e⟩ | ⟨hle, -⟩
  · rw [e, headerOf_diag]
  · exact absurd h hle.not_gt

/-- A read response that fits its buffer yields half as many values as it declares data bytes (R194, R233). -/
theorem decodeRead_of_fits (h : headerLength fr + 1 + (byteAt buf (headerLength fr)).toNat + 2 ≤ buf.length) :
    (decodeRead fr buf).diag = .none ∧
      (decodeRead fr buf).values.length = (byteAt buf (headerLength fr)).toNat / 2 := by
  rcases decodeRead_cases fr buf with ⟨hlt, -⟩ | ⟨-, d, rfl, hd, -, -, -, -, -, -, -, -, -, hvalues, -, -⟩
  · exact absurd h hlt.not_ge
  · exact ⟨hd, by simp [hvalues]⟩

theorem decodeEcho_of_short (h : buf.length < headerLength fr + 6) :
    decodeEcho fr buf = headerOf fr buf .echoTooShort :=
  if_pos h

theorem decodeEcho_of_fits (h : headerLength fr + 6 ≤ buf.length) :
    decodeEcho fr buf = { headerOf fr buf .none with
      rstart := get16 fr buf (headerLength fr), rcount := get16 fr buf (headerLength fr + 2) } :=
  if_neg h.not_gt

end Rows

/-- The rows of R270 with diagnosis ExceptionResponse: there is one, and no test of the code or of the function code
under the flag (R269). -/
theorem decodeResponse_diag_eq_exceptionResponse_iff (fr : Framing) (buf : List Byte) :
    (decodeResponse fr buf).diag = .exceptionResponse ↔
      headerLength fr + 3 ≤ buf.length ∧ crcOk buf = true ∧ (byteAt buf 1).getLsbD 7 = true := by
  refine ⟨fun h => ?_, fun ⟨hl, hc, hx⟩ => by rw [decodeResponse_of_flag hl hc hx, headerOf_diag]⟩
  rcases decodeResponse_cases fr buf with ⟨-, e⟩ | ⟨-, -, e⟩ | ⟨hl, hc, hx, -⟩ | ⟨-, -, -, -, e⟩ | ⟨-, -, -, -, e⟩ |
    ⟨-, -, -, -, -, -, -, e⟩
  case inr.inr.inl => exact ⟨hl, hc, hx⟩
  all_goals rw [e] at h
  case inl | inr.inl | inr.inr.inr.inr.inr => cases h
  case inr.inr.inr.inl =>
    rcases decodeRead_cases fr buf with ⟨hlt, -⟩ | ⟨hle, -⟩
    · cases (decodeRead_diag_of_short hlt).symm.trans h
    · cases (decodeRead_of_fits hle).1.symm.trans h
  case inr.inr.inr.inr.inl =>
    rcases decodeEcho_cases fr buf with ⟨-, e⟩ | ⟨-, e⟩ <;> rw [e] at h <;> cases h

/-- NVAL holds the number of values of a read response: a length byte declares at most 127 (R46). -/
theorem nval_toNat_of_length {vs : List U16} {b : Byte} (h : vs.length = b.toNat / 2) :
    (BitVec.ofNat 8 vs.length).toNat = b.toNat / 2 := by
  rw [BitVec.toNat_ofNat, h]
  exact Nat.mod_eq_of_lt (by have := b.isLt; omega)

/-! ### The obligations -/

/-- Settles O32: the command latches the record of its decoder, RSTAT gives back the record's diagnosis, and the row
lemmas give the record on each row. -/
theorem decodeCommandsFollowTheDecisionTable : Obligations.DecodeCommandsFollowTheDecisionTable := by
  unfold Obligations.DecodeCommandsFollowTheDecisionTable
  intro s c fr hc
  refine ⟨(s.latch (decodeResponse fr s.input)).setCerr .ok, (decodeResponse fr s.input).diag, exec_decoder hc, rfl,
    rstatDiag_packRstat .., rstatKind_packRstat .., ?_, ?_⟩
  · exact (Bool.eq_iff_iff.mp (rstatNeedMore_packRstat ..)).trans (diagNeedMore_iff _)
  simp only [State.setCerr_rstat, State.setCerr_nval, State.setCerr_rstart, State.setCerr_rcount, State.latch_rstat,
    State.latch_nval, State.latch_rstart, State.latch_rcount, rstatExc_packRstat, ← crcOk_iff, Bool.not_eq_true]
  refine ⟨fun hl => ?_, fun hl hcrc => ?_, fun hl hcrc hx => ?_, fun hl hcrc hx hf hn => ?_, fun hl hcrc hx hf hn => ?_,
    fun hl hcrc hx hf hn => ?_, fun hl hcrc hx hf hn => ?_, fun hl hcrc hx h3 h4 h6 h16 => ?_⟩
  · rw [decodeResponse_of_short hl]
  · rw [decodeResponse_of_badCrc hl hcrc, headerOf_diag]
  · rw [decodeResponse_of_flag hl hcrc hx]
    exact ⟨rfl, rfl⟩
  · rw [decodeResponse_of_read hl hcrc hx hf, decodeRead_diag_of_short hn]
  · rw [decodeResponse_of_read hl hcrc hx hf]
    obtain ⟨hdiag, hlength⟩ := decodeRead_of_fits hn
    exact ⟨hdiag, nval_toNat_of_length hlength⟩
  · rw [decodeResponse_of_echo hl hcrc hx hf, decodeEcho_of_short hn, headerOf_diag]
  · rw [decodeResponse_of_echo hl hcrc hx hf, decodeEcho_of_fits hn]
    exact ⟨rfl, rfl, rfl⟩
  · rw [decodeResponse_of_unsupported hl hcrc hx h3 h4 h6 h16, headerOf_diag]

/-- Settles O38: the exception row of the table gives the fields, and no other row has that diagnosis. -/
theorem exceptionCodeIsPassedThrough : Obligations.ExceptionCodeIsPassedThrough := by
  unfold Obligations.ExceptionCodeIsPassedThrough
  intro s t c fr hc ht
  obtain rfl := report_next ((exec_decoder hc).symm.trans ht)
  simp only [State.setCerr_rstat, State.latch_rstat, rstatKind_packRstat, rstatExcf_packRstat, rstatExc_packRstat,
    ← crcOk_iff]
  refine ⟨fun hl hcrc hx => ?_, fun hkind => ?_⟩
  · rw [decodeResponse_of_flag hl hcrc hx]
    exact ⟨rfl, hx, rfl⟩
  · exact (decodeResponse_diag_eq_exceptionResponse_iff fr s.input).mp
      ((diagKind_eq_exception_iff _).mp (kindCode_injective hkind))

end Sys2Proof.Machine
end

section
/-! PROOFS. The system command: NOP is the common ending of a command and nothing before it (spec 45_system.md R290). -/

namespace Sys2Proof.Machine

/-- The common ending of the commands that did their work writes CERR 0 and no other field (R44, R306). -/
theorem complete_eq (s : State) : complete s = .next { s with cstat := 0 } := rfl

theorem exec_nop (s : State) : exec .nop s = complete s := rfl

/-- Settles O16: NOP is the common ending alone, which writes CERR 0. -/
theorem nopClearsCerrOnly : Obligations.NopClearsCerrOnly := by
  unfold Obligations.NopClearsCerrOnly
  intro s
  calc exec .nop s = complete s := exec_nop s
    _ = .next { s with cstat := 0 } := complete_eq s

end Sys2Proof.Machine
end

section
/-! PROOFS. Every command is defined straight after reset (spec 70_reset_and_hazards.md R341). -/

namespace Sys2Proof.Machine

/-- A command answers a next state on every state (R261, R307). -/
theorem exec_answers {i : Instr} (s : State) (hi : i.space = .cmd) : ∃ t, exec i s = .next t := by
  obtain ⟨w, -, hexec, -⟩ := exec_effect_withResults s s hi (fun _ => rfl)
  exact ⟨w.apply s, hexec⟩

/-- At reset the input is the empty sequence: ILEN is 0 (R340). -/
theorem input_reset : State.reset.input = [] := rfl

/-- The decode results that a buffer below the minimum length leaves are the reset values (R190, R340). -/
theorem report_tooShort_reset : report { diag := .tooShort } State.reset = .next State.reset := rfl

/-- The read request for address 1, start 0 and count 0, the operands at reset (R183, R340). -/
theorem stdEncRead_reset :
    stdEncRead State.reset.addr State.reset.fsel State.reset.start State.reset.count =
      [0x01, 0x03, 0x00, 0x00, 0x00, 0x00, 0x45, 0xCA] := by
  decide +kernel

/-- Settles O15: commands answer on every state; the empty input of the reset state is below the minimum length, and
the reset operands give the read request of the spec. -/
theorem commandsWorkStraightAfterReset : Obligations.CommandsWorkStraightAfterReset := by
  unfold Obligations.CommandsWorkStraightAfterReset
  refine ⟨fun i hi => exec_answers State.reset hi, ?_, ?_⟩
  · have hshort : ([] : List Byte).length < headerLength .std + 3 := by decide
    rw [exec_decoder (.inl ⟨rfl, rfl⟩), input_reset, decodeResponse_of_short hshort, report_tooShort_reset]
  · rw [exec_stdRd, stdEncRead_reset, emitFrame_eq]
    rfl

end Sys2Proof.Machine
end

section
/-! PROOFS. A good buffer with one byte replaced fails the checksum test (spec 40_crc.md R147, 70_reset_and_hazards.md
R364). A byte of the payload changes the computed CRC and leaves the stored one; a byte of the trailer does the
opposite. -/

namespace Sys2Proof

/-- The checksum test of a payload and a trailer compares the CRC of the one with the word in the other (R33). -/
theorem crcOk_append_iff {payload trailer : List Byte} (h : trailer.length = 2) :
    crcOk (payload ++ trailer) = true ↔ crc16 payload = le16 trailer 0 := by
  have hword : le16 (payload ++ trailer) payload.length = le16 trailer 0 := by
    have hread := get16_append_right (.lxp .both) trailer payload.length.le_refl
    rwa [Nat.sub_self] at hread
  rw [crcOk_iff, List.length_append, h, Nat.add_sub_cancel, List.take_left, hword]

/-- Good buffers with one payload are one buffer: the payload fixes the trailer (R33). -/
theorem eq_of_crcOk_of_take_eq {f g : List Byte} (hlf : 2 ≤ f.length) (hlg : 2 ≤ g.length) (hf : crcOk f = true)
    (hg : crcOk g = true) (h : f.take (f.length - 2) = g.take (g.length - 2)) : f = g := by
  rw [← closeFrame_of_crcOk hlf hf, h, closeFrame_of_crcOk hlg hg]

/-- Good buffers that differ at most in one byte of the payload do not differ: the stored CRC is the same, so the
computed one must be. -/
theorem payload_byte_inj_of_crcOk {before after : List Byte} {a b : Byte} (hafter : 2 ≤ after.length)
    (ha : crcOk (before ++ [a] ++ after) = true) (hb : crcOk (before ++ [b] ++ after) = true) : a = b := by
  obtain ⟨mid, trailer, rfl, htrailer⟩ : ∃ mid trailer, after = mid ++ trailer ∧ trailer.length = 2 :=
    ⟨_, _, (List.take_append_drop (after.length - 2) after).symm, by rw [List.length_drop]; omega⟩
  rw [← List.append_assoc, crcOk_append_iff htrailer] at ha hb
  exact crc16_replace_byte_inj.mp (ha.trans hb.symm)

/-- Good buffers that differ at most in one byte of the trailer do not differ: fewer than two bytes after it, it stands
behind the payload. -/
theorem trailer_byte_inj_of_crcOk {before after : List Byte} {a b : Byte} (hafter : after.length < 2)
    (hl : 2 ≤ (before ++ [a] ++ after).length) (ha : crcOk (before ++ [a] ++ after) = true)
    (hb : crcOk (before ++ [b] ++ after) = true) : a = b := by
  have hpayload (c : Byte) : (before ++ [c] ++ after).take ((before ++ [c] ++ after).length - 2) =
      before.take (before.length + 1 + after.length - 2) := by
    have hstart : before.length + 1 + after.length - 2 ≤ before.length := by omega
    simp only [List.append_assoc, List.length_append, List.length_singleton, ← Nat.add_assoc,
      List.take_append_of_le_length hstart]
  have hlength : (before ++ [b] ++ after).length = (before ++ [a] ++ after).length := by simp
  have hframe := eq_of_crcOk_of_take_eq hl (hlength ▸ hl) ha hb ((hpayload a).trans (hpayload b).symm)
  simpa using hframe

/-- Good buffers that differ at most in one byte, wherever it stands, do not differ. -/
theorem byte_inj_of_crcOk {before after : List Byte} {a b : Byte} (hl : 2 ≤ (before ++ [a] ++ after).length)
    (ha : crcOk (before ++ [a] ++ after) = true) (hb : crcOk (before ++ [b] ++ after) = true) : a = b := by
  rcases Nat.lt_or_ge after.length 2 with hafter | hafter
  · exact trailer_byte_inj_of_crcOk hafter hl ha hb
  · exact payload_byte_inj_of_crcOk hafter ha hb

end Sys2Proof

namespace Sys2Proof.Machine

/-- Settles O43: the flipped byte is another byte, so the buffer with it is not good, and a buffer long enough that is
not good meets the checksum row of the table. -/
theorem everySingleBitFlipIsAChecksumMismatch : Obligations.EverySingleBitFlipIsAChecksumMismatch := by
  unfold Obligations.EverySingleBitFlipIsAChecksumMismatch
  intro fr before after b k hk hl hgood
  have hlength : (before ++ [b ^^^ BitVec.twoPow 8 k] ++ after).length = (before ++ [b] ++ after).length := by simp
  have hbad : crcOk (before ++ [b ^^^ BitVec.twoPow 8 k] ++ after) = false := Bool.eq_false_iff.mpr fun hflipped =>
    xor_twoPow_ne b hk (byte_inj_of_crcOk (by omega) hflipped hgood)
  rw [decodeResponse_of_badCrc (hlength ▸ hl) hbad, headerOf_diag]

end Sys2Proof.Machine
end

section
/-! PROOFS. A wire frame as a header and a body, in either framing: its length, its bytes, and that every good buffer is
one (spec 30_encoding.md R103, R105 to R109). -/

namespace Sys2Proof

/-! ### Slices -/

theorem slice_append_right (l r : List Byte) (i j : Nat) :
    slice (l ++ r) (l.length + i) (l.length + j) = slice r i j := by
  rw [slice, slice, List.drop_append, List.drop_of_length_le (by omega), List.nil_append, Nat.add_sub_cancel_left,
    Nat.add_sub_add_left]

theorem slice_append_left {l : List Byte} (r : List Byte) {i j : Nat} (hij : i ≤ j) (hj : j ≤ l.length) :
    slice (l ++ r) i j = slice l i j := by
  rw [slice, slice, List.drop_append_of_le_length (hij.trans hj), List.take_append_of_le_length]
  rw [List.length_drop]
  omega

theorem slice_zero (l : List Byte) (j : Nat) : slice l 0 j = l.take j := rfl

theorem slice_length_self (l : List Byte) (i : Nat) : slice l i l.length = l.drop i := by
  rw [slice, List.take_of_length_le (by rw [List.length_drop])]

/-- Two bytes at the front of a sequence are the framing's write of what it reads there (R20). -/
theorem put16_get16_append_drop (fr : Framing) {l : List Byte} (h : 2 ≤ l.length) :
    put16 fr (get16 fr l 0) ++ l.drop 2 = l := by
  match l, h with
  | x :: y :: r, _ => rw [put16_get16]; rfl

/-! ### The header of a framing -/

/-- The serial fields of a header in wire order: none in the Standard framing (R105, R107). -/
def serialField : Option HeaderSerials → List Byte
  | none => []
  | some ser => headerSerialBytes ser

/-- The framing's header has these serial fields: none in the Standard framing, those of the strap in the Proprietary
one (R105, R107). -/
inductive Carries : Framing → Option HeaderSerials → Prop
  | std : Carries .std none
  | lxp {m : SerialMode} {ser : HeaderSerials} (h : ser.fits m = true) : Carries (.lxp m) (some ser)

/-- The serial fields of a received header, in either framing (R229). -/
def receivedSerials : Framing → List Byte → Option HeaderSerials
  | .std, _ => none
  | .lxp m, buf => some (readSerials m buf)

theorem receivedSerials_carried (fr : Framing) (buf : List Byte) : Carries fr (receivedSerials fr buf) := by
  cases fr with
  | std => exact .std
  | lxp m => exact .lxp (readSerials_fits m buf)

theorem serialField_length {fr : Framing} {hdr : Option HeaderSerials} (h : Carries fr hdr) :
    (serialField hdr).length + 2 = headerLength fr := by
  cases h with
  | std => rfl
  | lxp h => exact headerSerialBytes_length h

theorem headerLength_bounds (fr : Framing) : 2 ≤ headerLength fr ∧ headerLength fr ≤ 22 := by
  cases fr with
  | std => decide
  | lxp m => have := headerBytes_bounds m; simp only [headerLength_lxp]; omega

/-- The serials read from a buffer are the bytes between its function byte and byte `Hd` (R229). -/
theorem serialField_receivedSerials {fr : Framing} {buf : List Byte} (h : headerLength fr ≤ buf.length) :
    serialField (receivedSerials fr buf) = slice buf 2 (headerLength fr) := by
  cases fr with
  | std => simp [serialField, receivedSerials, slice]
  | lxp m =>
    have hten {i : Nat} (hi : i + 10 ≤ buf.length) :
        serialBytes (serialOf (slice buf i (i + 10))) = slice buf i (i + 10) :=
      serialBytes_serialOf (by rw [slice_length]; omega)
    cases m with
    | both =>
      have h : 22 ≤ buf.length := h
      show serialBytes _ ++ serialBytes _ = slice buf 2 22
      rw [hten (i := 2) (by omega), hten (i := 12) (by omega)]
      have hsplit := List.take_append_drop 10 (slice buf 2 22)
      simpa [slice, List.take_take, List.drop_take] using hsplit
    | deviceOnly => exact hten (i := 2) h
    | bridgeOnly => exact hten (i := 2) h

/-! ### The frame of a header and a body -/

/-- The frame with a header and a body: address, function byte, serial fields, body, trailer (R103, R105 to R109). -/
def wireFrame (a fb : Byte) (hdr : Option HeaderSerials) (body : List Byte) : List Byte :=
  closeFrame ([a, fb] ++ serialField hdr ++ body)

/-- A buffer that passes the checksum test and is long enough for a header is a frame (R33). -/
theorem exists_wireFrame {fr : Framing} {buf : List Byte} (hl : headerLength fr + 2 ≤ buf.length)
    (hc : crcOk buf = true) : ∃ a fb hdr body, Carries fr hdr ∧ buf = wireFrame a fb hdr body := by
  refine ⟨byteAt buf 0, byteAt buf 1, receivedSerials fr buf, slice buf (headerLength fr) (buf.length - 2),
    receivedSerials_carried fr buf, ?_⟩
  have hH := (headerLength_bounds fr).1
  have hhead : [byteAt buf 0, byteAt buf 1] ++ slice buf 2 (headerLength fr) = buf.take (headerLength fr) := by
    match buf, hl with
    | [], hl => simp at hl
    | [_], hl => simp at hl
    | x :: y :: r, _ =>
      obtain ⟨k, hk⟩ := Nat.exists_eq_add_of_le' hH
      simp [slice, hk]
  have hbody : buf.take (headerLength fr) ++ slice buf (headerLength fr) (buf.length - 2) =
      buf.take (buf.length - 2) := by
    rw [slice, ← List.take_add, Nat.add_sub_cancel' (by omega)]
  rw [wireFrame, serialField_receivedSerials (by omega), hhead, hbody, closeFrame_of_crcOk (by omega) hc]

section Frame

variable (a fb : Byte) {fr : Framing} {hdr : Option HeaderSerials} (body : List Byte)

@[simp] theorem crcOk_wireFrame : crcOk (wireFrame a fb hdr body) = true := crcOk_closeFrame _

@[simp] theorem byteAt_wireFrame_zero : byteAt (wireFrame a fb hdr body) 0 = a := rfl

@[simp] theorem byteAt_wireFrame_one : byteAt (wireFrame a fb hdr body) 1 = fb := rfl

/-- The header of a frame, and then its body and trailer. -/
theorem wireFrame_split : wireFrame a fb hdr body =
    ([a, fb] ++ serialField hdr) ++ (body ++ putLe16 (crc16 ([a, fb] ++ serialField hdr ++ body))) := by
  rw [wireFrame, closeFrame, List.append_assoc]

theorem header_length (h : Carries fr hdr) : ([a, fb] ++ serialField hdr).length = headerLength fr := by
  rw [List.length_append, List.length_cons, List.length_singleton, Nat.add_comm]
  exact serialField_length h

theorem wireFrame_length (h : Carries fr hdr) :
    (wireFrame a fb hdr body).length = headerLength fr + body.length + 2 := by
  rw [wireFrame, closeFrame_length, List.length_append, header_length a fb h]

/-- The bytes before the body are the header (R107). -/
theorem slice_wireFrame_header (h : Carries fr hdr) :
    slice (wireFrame a fb hdr body) 0 (headerLength fr) = [a, fb] ++ serialField hdr := by
  rw [wireFrame_split, slice_zero, ← header_length a fb h, List.take_left]

theorem get16_wireFrame (h : Carries fr hdr) {i : Nat} (hi : i + 1 < body.length) :
    get16 fr (wireFrame a fb hdr body) (headerLength fr + i) = get16 fr body i := by
  have hlen := header_length a fb h
  rw [wireFrame_split, get16_append_right _ _ (by omega), hlen, Nat.add_sub_cancel_left, get16_append_left _ _ hi]

theorem byteAt_wireFrame (h : Carries fr hdr) {i : Nat} (hi : i < body.length) :
    byteAt (wireFrame a fb hdr body) (headerLength fr + i) = byteAt body i := by
  have hlen := header_length a fb h
  rw [wireFrame_split, byteAt_append_right _ (by omega), hlen, Nat.add_sub_cancel_left, byteAt_append_left _ hi]

theorem slice_wireFrame (h : Carries fr hdr) {i j : Nat} (hij : i ≤ j) (hj : j ≤ body.length) :
    slice (wireFrame a fb hdr body) (headerLength fr + i) (headerLength fr + j) = slice body i j := by
  rw [wireFrame_split, ← header_length a fb h, slice_append_right, slice_append_left _ hij hj]

/-- What a response holds before its trailer, from byte `i` of the body on (R268). -/
theorem slice_wireFrame_rest (h : Carries fr hdr) {i : Nat} (hi : i ≤ body.length) :
    slice (wireFrame a fb hdr body) (headerLength fr + i) ((wireFrame a fb hdr body).length - 2) = body.drop i := by
  rw [wireFrame_length a fb body h, Nat.add_sub_cancel, slice_wireFrame a fb body h hi le_rfl, slice_length_self]

/-- A receiver finds the serial fields that were sent (R107, R229). -/
theorem receivedSerials_wireFrame (h : Carries fr hdr) : receivedSerials fr (wireFrame a fb hdr body) = hdr := by
  cases h with
  | std => rfl
  | lxp h =>
    rw [wireFrame_split]
    exact congrArg some (readSerials_header h a fb _)

end Frame

end Sys2Proof
end

section
/-! PROOFS. The wire rows of both framings as one table of payloads behind a header, and the decoder of frames as its
inverse (spec 30_encoding.md R101 to R116). -/

namespace Sys2Proof

/-- What a wire row holds behind its header, whatever the framing: a row of the request or of the response table (R105,
R106, R108, R109). -/
inductive Payload where
  | reqRd3 (start count : U16)
  | reqRd4 (start count : U16)
  | reqWr1 (register value : U16)
  | reqWrn (start : U16) (values : List U16)
  | rspExc (func : BitVec 7) (code : Byte) (extra : List Byte)
  | rspRd3 (data extra : List Byte)
  | rspRd4 (data extra : List Byte)
  | rspWr1 (register value : U16) (extra : List Byte)
  | rspWrn (start count : U16) (extra : List Byte)

theorem put16_std : put16 .std = putBe16 := rfl
theorem put16_lxp (m : SerialMode) : put16 (.lxp m) = putLe16 := rfl

namespace Payload

def isRequest : Payload → Bool
  | reqRd3 .. | reqRd4 .. | reqWr1 .. | reqWrn .. => true
  | rspExc .. | rspRd3 .. | rspRd4 .. | rspWr1 .. | rspWrn .. => false

/-- The function byte of the row (R104, R110). -/
def function : Payload → Byte
  | reqRd3 .. | rspRd3 .. => 0x03
  | reqRd4 .. | rspRd4 .. => 0x04
  | reqWr1 .. | rspWr1 .. => 0x06
  | reqWrn .. | rspWrn .. => 0x10
  | rspExc func .. => exceptionByte func

/-- The bytes between header and trailer. -/
def body (fr : Framing) : Payload → List Byte
  | reqRd3 x y | reqRd4 x y | reqWr1 x y => put16 fr x ++ put16 fr y
  | reqWrn start values =>
    put16 fr start ++ put16 fr (countField values) ++ [byteCount values] ++ values.flatMap (put16 fr)
  | rspExc _ code extra => code :: extra
  | rspRd3 data extra | rspRd4 data extra => lengthByte data :: (data ++ extra)
  | rspWr1 x y extra | rspWrn x y extra => put16 fr x ++ put16 fr y ++ extra

/-- The counts and lengths are those some frame of the framing carries (`Instr.wf`, less the header). -/
def fits (fr : Framing) : Payload → Bool
  | reqRd3 .. | reqRd4 .. | reqWr1 .. => true
  | reqWrn _ values => countFits values
  | rspExc _ _ extra => frameFits (headerLength fr + 3 + extra.length)
  | rspRd3 data extra | rspRd4 data extra =>
    dataFits data && frameFits (headerLength fr + 3 + data.length + extra.length)
  | rspWr1 _ _ extra | rspWrn _ _ extra => frameFits (headerLength fr + 6 + extra.length)

end Payload

/-- The row of the table with an address, serial fields and a payload. -/
def wireRow (a : Byte) : Option HeaderSerials → Payload → Instr
  | none, .reqRd3 x y => .stdReqRd3 a x y
  | none, .reqRd4 x y => .stdReqRd4 a x y
  | none, .reqWr1 x y => .stdReqWr1 a x y
  | none, .reqWrn x vs => .stdReqWrn a x vs
  | none, .rspExc f c e => .stdRspExc a f c e
  | none, .rspRd3 d e => .stdRspRd3 a d e
  | none, .rspRd4 d e => .stdRspRd4 a d e
  | none, .rspWr1 x y e => .stdRspWr1 a x y e
  | none, .rspWrn x y e => .stdRspWrn a x y e
  | some ser, .reqRd3 x y => .lxpReqRd3 a ser x y
  | some ser, .reqRd4 x y => .lxpReqRd4 a ser x y
  | some ser, .reqWr1 x y => .lxpReqWr1 a ser x y
  | some ser, .reqWrn x vs => .lxpReqWrn a ser x vs
  | some ser, .rspExc f c e => .lxpRspExc a f ser c e
  | some ser, .rspRd3 d e => .lxpRspRd3 a ser d e
  | some ser, .rspRd4 d e => .lxpRspRd4 a ser d e
  | some ser, .rspWr1 x y e => .lxpRspWr1 a ser x y e
  | some ser, .rspWrn x y e => .lxpRspWrn a ser x y e

/-! ### Rows and their encodings -/

/-- A row is encoded as the frame of its header and payload (R105 to R109). -/
theorem encode_wireRow {fr : Framing} {hdr : Option HeaderSerials} (h : Carries fr hdr) (a : Byte) (p : Payload) :
    encode (wireRow a hdr p) = wireFrame a p.function hdr (p.body fr) := by
  cases h with
  | std => cases p <;> rfl
  | lxp h =>
    cases p <;> simp only [wireRow, encode, wireFrame, serialField, Payload.function, Payload.body, put16_lxp,
      List.append_assoc, List.cons_append, List.nil_append]

theorem wf_wireRow_none (m : SerialMode) (a : Byte) (p : Payload) : (wireRow a none p).wf m = p.fits .std := by
  cases p <;> rfl

theorem wf_wireRow_some (m : SerialMode) (a : Byte) (ser : HeaderSerials) (p : Payload) :
    (wireRow a (some ser) p).wf m = (ser.fits m && p.fits (.lxp m)) := by
  cases p <;> simp only [wireRow, Instr.wf, Payload.fits, Bool.and_true, Bool.and_assoc, headerLength_lxp]

/-- Every instruction that is no command is a row of a header and a payload. -/
theorem exists_wireRow {i : Instr} (h : i.space ≠ .cmd) : ∃ a hdr p, i = wireRow a hdr p := by
  cases i with
  | stdReqRd3 a x y => exact ⟨a, none, .reqRd3 x y, rfl⟩
  | stdReqRd4 a x y => exact ⟨a, none, .reqRd4 x y, rfl⟩
  | stdReqWr1 a x y => exact ⟨a, none, .reqWr1 x y, rfl⟩
  | stdReqWrn a x vs => exact ⟨a, none, .reqWrn x vs, rfl⟩
  | stdRspExc a f c e => exact ⟨a, none, .rspExc f c e, rfl⟩
  | stdRspRd3 a d e => exact ⟨a, none, .rspRd3 d e, rfl⟩
  | stdRspRd4 a d e => exact ⟨a, none, .rspRd4 d e, rfl⟩
  | stdRspWr1 a x y e => exact ⟨a, none, .rspWr1 x y e, rfl⟩
  | stdRspWrn a x y e => exact ⟨a, none, .rspWrn x y e, rfl⟩
  | lxpReqRd3 a ser x y => exact ⟨a, some ser, .reqRd3 x y, rfl⟩
  | lxpReqRd4 a ser x y => exact ⟨a, some ser, .reqRd4 x y, rfl⟩
  | lxpReqWr1 a ser x y => exact ⟨a, some ser, .reqWr1 x y, rfl⟩
  | lxpReqWrn a ser x vs => exact ⟨a, some ser, .reqWrn x vs, rfl⟩
  | lxpRspExc a f ser c e => exact ⟨a, some ser, .rspExc f c e, rfl⟩
  | lxpRspRd3 a ser d e => exact ⟨a, some ser, .rspRd3 d e, rfl⟩
  | lxpRspRd4 a ser d e => exact ⟨a, some ser, .rspRd4 d e, rfl⟩
  | lxpRspWr1 a ser x y e => exact ⟨a, some ser, .rspWr1 x y e, rfl⟩
  | lxpRspWrn a ser x y e => exact ⟨a, some ser, .rspWrn x y e, rfl⟩
  | _ => exact absurd rfl h

/-- The framing of a space of frames under a strap, and whether it holds the requests (R116). -/
def Space.frames (m : SerialMode) : Space → Option (Framing × Bool)
  | .cmd => none
  | .stdReq => some (.std, true)
  | .stdRsp => some (.std, false)
  | .lxpReq => some (.lxp m, true)
  | .lxpRsp => some (.lxp m, false)

theorem Space.frames_injective (m : SerialMode) : Function.Injective (Space.frames m) := by
  intro sp sp' h
  cases sp <;> cases sp' <;> first | rfl | cases h

theorem frames_space_wireRow_none (m : SerialMode) (a : Byte) (p : Payload) :
    (wireRow a none p).space.frames m = some (.std, p.isRequest) := by
  cases p <;> rfl

theorem frames_space_wireRow_some (m : SerialMode) (a : Byte) (ser : HeaderSerials) (p : Payload) :
    (wireRow a (some ser) p).space.frames m = some (.lxp m, p.isRequest) := by
  cases p <;> rfl

/-- The well-formed instructions of a space of frames are the rows whose header and payload fit the framing. -/
theorem wf_and_space_iff {m : SerialMode} {sp : Space} {fr : Framing} {req : Bool} (hsp : sp.frames m = some (fr, req))
    (i : Instr) : i.wf m = true ∧ i.space = sp ↔
      ∃ a hdr p, Carries fr hdr ∧ p.fits fr = true ∧ p.isRequest = req ∧ i = wireRow a hdr p := by
  constructor
  · rintro ⟨hwf, rfl⟩
    obtain ⟨a, hdr, p, rfl⟩ := exists_wireRow (i := i) (fun h => by rw [h] at hsp; cases hsp)
    cases hdr with
    | none =>
      rw [frames_space_wireRow_none] at hsp
      rw [wf_wireRow_none] at hwf
      cases hsp
      exact ⟨a, _, p, .std, hwf, rfl, rfl⟩
    | some ser =>
      rw [frames_space_wireRow_some] at hsp
      rw [wf_wireRow_some, Bool.and_eq_true] at hwf
      cases hsp
      exact ⟨a, _, p, .lxp hwf.1, hwf.2, rfl, rfl⟩
  · rintro ⟨a, hdr, p, hhdr, hfits, hreq, rfl⟩
    cases hhdr with
    | std =>
      subst hreq
      exact ⟨(wf_wireRow_none m a p).trans hfits,
        Space.frames_injective m ((frames_space_wireRow_none m a p).trans hsp.symm)⟩
    | @lxp m' ser hser =>
      obtain rfl : m' = m := by cases sp <;> cases hsp <;> rfl
      subst hreq
      refine ⟨?_, Space.frames_injective m' ((frames_space_wireRow_some m' a ser p).trans hsp.symm)⟩
      rw [wf_wireRow_some, hser, hfits, Bool.and_self]

end Sys2Proof
end

section
/-! PROOFS. The decoders of frames are inverse to the encoder (spec 30_encoding.md R101 to R116): on a frame each of
them finds exactly the payloads whose function byte and body the frame has. -/

namespace Sys2Proof

/-! ### Bodies -/

/-- A body begins with two words exactly if the framing reads them there (R71, R72). -/
theorem eq_put16_put16_iff (fr : Framing) (body : List Byte) (x y : U16) (rest : List Byte) :
    body = put16 fr x ++ put16 fr y ++ rest ↔
      4 ≤ body.length ∧ get16 fr body 0 = x ∧ get16 fr body 2 = y ∧ body.drop 4 = rest := by
  constructor
  · rintro rfl
    have hlen : (put16 fr x ++ put16 fr y).length = 4 := by simp
    refine ⟨by rw [List.length_append, hlen]; omega, by rw [List.append_assoc, get16_put16], ?_,
      by rw [← hlen, List.drop_left]⟩
    rw [List.append_assoc, get16_append_right _ _ (by simp), put16_length, get16_put16]
  · rintro ⟨hlen, rfl, rfl, rfl⟩
    match body, hlen with
    | a :: b :: c :: d :: rest, _ =>
      have hsecond : get16 fr (a :: b :: c :: d :: rest) 2 = get16 fr (c :: d :: rest) 0 := by
        rw [get16_cons_succ, get16_cons_succ]
      rw [hsecond, put16_get16, put16_get16]
      rfl

/-- What stands from index `k` on, byte by byte (R19). -/
theorem drop_eq_cons_iff (l : List Byte) (k : Nat) (b : Byte) (rest : List Byte) :
    l.drop k = b :: rest ↔ k < l.length ∧ byteAt l k = b ∧ l.drop (k + 1) = rest := by
  by_cases hk : k < l.length
  · rw [List.drop_eq_getElem_cons hk, List.cons_eq_cons, byteAt, List.getD_eq_getElem _ _ hk]
    simp [hk]
  · rw [List.drop_of_length_le (by omega)]
    simp [hk]

/-- A write-multiple request's body, field by field (R105, R108). -/
theorem writeMany_body_eq_iff (fr : Framing) (x : U16) (vs : List U16) (body : List Byte) :
    (Payload.reqWrn x vs).body fr = body ↔ 4 < body.length ∧ get16 fr body 0 = x ∧ get16 fr body 2 = countField vs ∧
      byteAt body 4 = byteCount vs ∧ body.drop 5 = vs.flatMap (put16 fr) := by
  rw [Payload.body, List.append_assoc, eq_comm, eq_put16_put16_iff, List.singleton_append, drop_eq_cons_iff]
  constructor
  · rintro ⟨-, hx, hcount, hlen, hbyte, hrest⟩
    exact ⟨hlen, hx, hcount, hbyte, hrest⟩
  · rintro ⟨hlen, hx, hcount, hbyte, hrest⟩
    exact ⟨hlen.le, hx, hcount, hlen, hbyte, hrest⟩

theorem lengthByte_toNat {data : List Byte} (h : dataFits data = true) : (lengthByte data).toNat = data.length := by
  have hle : data.length ≤ 255 := of_decide_eq_true h
  rw [lengthByte, BitVec.toNat_ofNat, Nat.mod_eq_of_lt (by omega)]

theorem countField_toNat {vs : List U16} (h : countFits vs = true) : (countField vs).toNat = vs.length := by
  have hle := Laws.length_of_countFits h
  rw [countField, BitVec.toNat_ofNat, Nat.mod_eq_of_lt (by omega)]

theorem byteCount_toNat {vs : List U16} (h : countFits vs = true) : (byteCount vs).toNat = 2 * vs.length := by
  have hle := Laws.length_of_countFits h
  rw [byteCount, BitVec.toNat_ofNat, Nat.mod_eq_of_lt (by omega)]

/-- The exception byte has the function code in bits 6:0 and bit 7 set (R104). -/
theorem exceptionByte_getLsbD (func : BitVec 7) (k : Nat) :
    (exceptionByte func).getLsbD k = if k < 7 then func.getLsbD k else (1#1).getLsbD (k - 7) := BitVec.getLsbD_append

/-- A function byte with bit 7 set is the exception byte of its other bits (R104). -/
theorem exceptionByte_extract {fb : Byte} (h : fb.getLsbD 7 = true) : exceptionByte (fb.extractLsb' 0 7) = fb := by
  apply BitVec.eq_of_getLsbD_eq
  intro k hk
  rw [exceptionByte_getLsbD, BitVec.getLsbD_extractLsb']
  rcases Nat.lt_succ_iff_lt_or_eq.mp hk with hlow | rfl
  · simp [hlow]
  · simpa using h.symm

theorem extract_exceptionByte (func : BitVec 7) : (exceptionByte func).extractLsb' 0 7 = func := by
  apply BitVec.eq_of_getLsbD_eq
  intro k hk
  rw [BitVec.getLsbD_extractLsb', Nat.zero_add, exceptionByte_getLsbD, if_pos hk, decide_eq_true hk, Bool.true_and]

theorem exceptionByte_flag (func : BitVec 7) : (exceptionByte func).getLsbD 7 = true := exceptionByte_getLsbD func 7

/-- A request's body holds at least its two words (R105, R108). -/
theorem Payload.request_body_length {p : Payload} (fr : Framing) (h : p.isRequest = true) : 4 ≤ (p.body fr).length := by
  cases p with
  | reqRd3 x y | reqRd4 x y | reqWr1 x y => simp [Payload.body]
  | reqWrn x vs => simp only [Payload.body, List.length_append, put16_length]; omega
  | _ => cases h

/-- A response that fits leaves room for a code and fits the buffer (R11, R106, R109). -/
theorem Payload.response_body_length {p : Payload} {fr : Framing} (h : p.isRequest = false) (hfits : p.fits fr = true) :
    1 ≤ (p.body fr).length ∧ headerLength fr + (p.body fr).length + 2 ≤ 512 := by
  cases p with
  | rspExc func code extra =>
    have := Laws.of_frameFits hfits
    simp only [Payload.body, List.length_cons]
    omega
  | rspRd3 data extra | rspRd4 data extra =>
    have := Laws.of_frameFits (Bool.and_eq_true_iff.mp hfits).2
    simp only [Payload.body, List.length_cons, List.length_append]
    omega
  | rspWr1 x y extra | rspWrn x y extra =>
    have := Laws.of_frameFits hfits
    simp only [Payload.body, List.length_append, put16_length]
    omega
  | _ => cases h

/-! A response whose frame fits the buffer fits as a payload. -/

section Fits

variable {fr : Framing} {extra : List Byte}

theorem exception_fits {func : BitVec 7} {code : Byte} (h : headerLength fr + (code :: extra).length + 2 ≤ 512) :
    (Payload.rspExc func code extra).fits fr = true := by
  rw [List.length_cons] at h
  exact decide_eq_true (by rw [Config.bufSize]; omega)

theorem read_fits {data : List Byte} (hdata : dataFits data = true)
    (h : headerLength fr + (lengthByte data :: (data ++ extra)).length + 2 ≤ 512) :
    (Payload.rspRd3 data extra).fits fr = true := by
  rw [List.length_cons, List.length_append] at h
  exact Bool.and_eq_true_iff.mpr ⟨hdata, decide_eq_true (by rw [Config.bufSize]; omega)⟩

theorem echo_fits {x y : U16} (h : headerLength fr + (put16 fr x ++ put16 fr y ++ extra).length + 2 ≤ 512) :
    (Payload.rspWr1 x y extra).fits fr = true := by
  rw [List.length_append, List.length_append, put16_length, put16_length] at h
  exact decide_eq_true (by rw [Config.bufSize]; omega)

end Fits

/-! ### The decoder's cases, in either framing -/

section Equations

variable {fr : Framing} {buf : List Byte}

theorem pairRequest_eq (h : buf.length = headerLength fr + 6) (std : Byte → U16 → U16 → Instr)
    (lxp : Byte → HeaderSerials → U16 → U16 → Instr) :
    pairRequest fr buf std lxp = .ok ((receivedSerials fr buf).elim
      (std (byteAt buf 0) (get16 fr buf (headerLength fr)) (get16 fr buf (headerLength fr + 2)))
      (lxp (byteAt buf 0) · (get16 fr buf (headerLength fr)) (get16 fr buf (headerLength fr + 2)))) := by
  rw [pairRequest.eq_def, if_neg (not_not_intro h)]
  cases fr <;> rfl

theorem writeManyRequest_eq {n : Nat} (hn : (get16 fr buf (headerLength fr + 2)).toNat = n) (hle : n ≤ 127)
    (hcount : (byteAt buf (headerLength fr + 4)).toNat = 2 * n) (h : buf.length = headerLength fr + 7 + 2 * n) :
    writeManyRequest fr buf = .ok (wireRow (byteAt buf 0) (receivedSerials fr buf)
      (.reqWrn (get16 fr buf (headerLength fr))
        (valuesOf fr (slice buf (headerLength fr + 5) (headerLength fr + 5 + 2 * n))))) := by
  subst hn
  rw [writeManyRequest, if_pos ⟨hle, hcount, h⟩]
  cases fr <;> rfl

theorem exceptionResponse_eq (fr : Framing) (buf : List Byte) :
    exceptionResponse fr buf = .ok (wireRow (byteAt buf 0) (receivedSerials fr buf)
      (.rspExc ((byteAt buf 1).extractLsb' 0 7) (byteAt buf (headerLength fr))
        (slice buf (headerLength fr + 1) (buf.length - 2)))) := by
  cases fr <;> rfl

theorem readResponse_eq {n : Nat} (hn : (byteAt buf (headerLength fr)).toNat = n)
    (h : headerLength fr + 1 + n + 2 ≤ buf.length) (std : Byte → List Byte → List Byte → Instr)
    (lxp : Byte → HeaderSerials → List Byte → List Byte → Instr) :
    readResponse fr buf std lxp = .ok ((receivedSerials fr buf).elim
      (std (byteAt buf 0) (slice buf (headerLength fr + 1) (headerLength fr + 1 + n))
        (slice buf (headerLength fr + 1 + n) (buf.length - 2)))
      (lxp (byteAt buf 0) · (slice buf (headerLength fr + 1) (headerLength fr + 1 + n))
        (slice buf (headerLength fr + 1 + n) (buf.length - 2)))) := by
  subst hn
  rw [readResponse, if_neg h.not_gt]
  cases fr <;> rfl

theorem echoResponse_eq (h : headerLength fr + 6 ≤ buf.length) (std : Byte → U16 → U16 → List Byte → Instr)
    (lxp : Byte → HeaderSerials → U16 → U16 → List Byte → Instr) :
    echoResponse fr buf std lxp = .ok ((receivedSerials fr buf).elim
      (std (byteAt buf 0) (get16 fr buf (headerLength fr)) (get16 fr buf (headerLength fr + 2))
        (slice buf (headerLength fr + 4) (buf.length - 2)))
      (lxp (byteAt buf 0) · (get16 fr buf (headerLength fr)) (get16 fr buf (headerLength fr + 2))
        (slice buf (headerLength fr + 4) (buf.length - 2)))) := by
  rw [echoResponse, if_neg h.not_gt]
  cases fr <;> rfl

end Equations

/-! ### The decoder's cases on a frame -/

section Frame

variable {fr : Framing} {hdr : Option HeaderSerials} (h : Carries fr hdr) (a fb : Byte) (body : List Byte) (i : Instr)
include h

theorem pairRequest_wireFrame_iff (std : Byte → U16 → U16 → Instr) (lxp : Byte → HeaderSerials → U16 → U16 → Instr) :
    pairRequest fr (wireFrame a fb hdr body) std lxp = .ok i ↔
      ∃ x y, put16 fr x ++ put16 fr y = body ∧ i = hdr.elim (std a x y) (lxp a · x y) := by
  have hlen := wireFrame_length a fb body h
  by_cases hfour : body.length = 4
  · have hfirst := get16_wireFrame a fb body h (i := 0) (by omega)
    have hsecond := get16_wireFrame a fb body h (i := 2) (by omega)
    rw [Nat.add_zero] at hfirst
    rw [pairRequest_eq (by omega), receivedSerials_wireFrame a fb body h, byteAt_wireFrame_zero, hfirst, hsecond]
    have hpair (x y : U16) : put16 fr x ++ put16 fr y = body ↔ get16 fr body 0 = x ∧ get16 fr body 2 = y := by
      have hiff := eq_put16_put16_iff fr body x y []
      rw [List.append_nil, eq_comm] at hiff
      simp [hiff, hfour]
    simp [hpair, eq_comm]
  · rw [pairRequest.eq_def, if_pos (by omega)]
    refine ⟨fun he => absurd he (by simp), ?_⟩
    rintro ⟨x, y, rfl, -⟩
    simp at hfour

theorem writeManyRequest_wireFrame_iff :
    writeManyRequest fr (wireFrame a fb hdr body) = .ok i ↔
      ∃ x vs, countFits vs = true ∧ (Payload.reqWrn x vs).body fr = body ∧ i = wireRow a hdr (.reqWrn x vs) := by
  have hlen := wireFrame_length a fb body h
  constructor
  · intro hok
    by_cases hcond : (get16 fr (wireFrame a fb hdr body) (headerLength fr + 2)).toNat ≤ Config.nvalMax ∧
        (byteAt (wireFrame a fb hdr body) (headerLength fr + 4)).toNat =
          2 * (get16 fr (wireFrame a fb hdr body) (headerLength fr + 2)).toNat ∧
        (wireFrame a fb hdr body).length =
          headerLength fr + 7 + 2 * (get16 fr (wireFrame a fb hdr body) (headerLength fr + 2)).toNat
    case neg =>
      rw [writeManyRequest, if_neg hcond] at hok
      cases hok
    obtain ⟨hle, hcount, hl⟩ := hcond
    rw [writeManyRequest_eq rfl hle hcount hl] at hok
    obtain ⟨n, hn⟩ : ∃ n, (get16 fr (wireFrame a fb hdr body) (headerLength fr + 2)).toNat = n := ⟨_, rfl⟩
    rw [hn] at hok hle hcount hl
    have hbody : body.length = 5 + 2 * n := by omega
    have hfirst := get16_wireFrame a fb body h (i := 0) (by omega)
    rw [Nat.add_zero] at hfirst
    rw [get16_wireFrame a fb body h (by omega)] at hn
    rw [byteAt_wireFrame a fb body h (by omega)] at hcount
    rw [receivedSerials_wireFrame a fb body h, byteAt_wireFrame_zero, hfirst, Nat.add_assoc, slice_wireFrame a fb body h
      (by omega) (by omega), ← hbody, slice_length_self] at hok
    have hvs : (valuesOf fr (body.drop 5)).length = n := by rw [valuesOf_length, List.length_drop]; omega
    have hfits : countFits (valuesOf fr (body.drop 5)) = true := decide_eq_true (hvs.trans_le hle)
    refine ⟨_, _, hfits, ?_, (Except.ok.inj hok).symm⟩
    exact (writeMany_body_eq_iff ..).mpr ⟨by omega, rfl,
      BitVec.eq_of_toNat_eq (by rw [hn, countField_toNat hfits, hvs]),
      BitVec.eq_of_toNat_eq (by rw [hcount, byteCount_toNat hfits, hvs]),
      (flatMap_valuesOf fr (by rw [List.length_drop]; omega)).symm⟩
  · rintro ⟨x, vs, hfits, hbody, rfl⟩
    have hlen5 : body.length = 5 + 2 * vs.length := by
      rw [← hbody]
      simp only [Payload.body, List.length_append, put16_length, List.length_singleton, flatMap_put16_length]
    obtain ⟨-, hx, hcount, hbyte, hrest⟩ := (writeMany_body_eq_iff ..).mp hbody
    have hfirst := get16_wireFrame a fb body h (i := 0) (by omega)
    rw [Nat.add_zero] at hfirst
    rw [writeManyRequest_eq (n := vs.length) _ (Laws.length_of_countFits hfits) _ (by omega),
      receivedSerials_wireFrame a fb _ h, byteAt_wireFrame_zero, hfirst, Nat.add_assoc,
      slice_wireFrame a fb _ h (by omega) (by omega), ← hlen5, slice_length_self, hx, hrest, valuesOf_flatMap]
    · rw [get16_wireFrame a fb _ h (by omega), hcount, countField_toNat hfits]
    · rw [byteAt_wireFrame a fb _ h (by omega), hbyte, byteCount_toNat hfits]

theorem exceptionResponse_wireFrame {code : Byte} {extra : List Byte} :
    exceptionResponse fr (wireFrame a fb hdr (code :: extra)) =
      .ok (wireRow a hdr (.rspExc (fb.extractLsb' 0 7) code extra)) := by
  have hcode := byteAt_wireFrame a fb (code :: extra) h (i := 0) (by simp)
  rw [Nat.add_zero] at hcode
  rw [exceptionResponse_eq, receivedSerials_wireFrame a fb _ h, byteAt_wireFrame_zero, byteAt_wireFrame_one, hcode,
    slice_wireFrame_rest a fb _ h (by simp)]
  rfl

theorem readResponse_wireFrame_iff (hbody : 1 ≤ body.length) (std : Byte → List Byte → List Byte → Instr)
    (lxp : Byte → HeaderSerials → List Byte → List Byte → Instr) :
    readResponse fr (wireFrame a fb hdr body) std lxp = .ok i ↔ ∃ data extra, dataFits data = true ∧
      lengthByte data :: (data ++ extra) = body ∧ i = hdr.elim (std a data extra) (lxp a · data extra) := by
  have hlen := wireFrame_length a fb body h
  have hdecl := byteAt_wireFrame a fb body h (i := 0) (by omega)
  rw [Nat.add_zero] at hdecl
  have hok (n : Nat) (hn : (byteAt body 0).toNat = n) (hle : 1 + n ≤ body.length) :
      readResponse fr (wireFrame a fb hdr body) std lxp = .ok (hdr.elim
        (std a (slice body 1 (1 + n)) (body.drop (1 + n))) (lxp a · (slice body 1 (1 + n)) (body.drop (1 + n)))) := by
    rw [readResponse_eq (hdecl.symm ▸ hn) (by omega), receivedSerials_wireFrame a fb _ h, byteAt_wireFrame_zero,
      Nat.add_assoc, slice_wireFrame a fb _ h (by omega) (by omega), slice_wireFrame_rest a fb _ h (by omega)]
  constructor
  · intro he
    by_cases hle : 1 + (byteAt body 0).toNat ≤ body.length
    case neg =>
      rw [readResponse, if_pos (by rw [hdecl]; omega)] at he
      cases he
    rw [hok _ rfl hle, Except.ok.injEq] at he
    have hdata : (slice body 1 (1 + (byteAt body 0).toNat)).length = (byteAt body 0).toNat := by
      rw [slice_length]
      omega
    have hfits : dataFits (slice body 1 (1 + (byteAt body 0).toNat)) = true :=
      decide_eq_true (hdata.trans_le (Nat.le_of_lt_succ (byteAt body 0).isLt))
    refine ⟨_, _, hfits, ?_, he.symm⟩
    have hsplit : slice body 1 (1 + (byteAt body 0).toNat) ++ body.drop (1 + (byteAt body 0).toNat) = body.drop 1 := by
      rw [slice, Nat.add_sub_cancel_left, ← List.drop_drop, List.take_append_drop]
    have hbyte : lengthByte (slice body 1 (1 + (byteAt body 0).toNat)) = byteAt body 0 :=
      BitVec.eq_of_toNat_eq (by rw [lengthByte_toNat hfits, hdata])
    rw [hsplit, hbyte]
    exact ((drop_eq_cons_iff body 0 _ _).mpr ⟨hbody, rfl, rfl⟩).symm
  · rintro ⟨data, extra, hfits, rfl, rfl⟩
    rw [hok data.length (by rw [byteAt_cons_zero, lengthByte_toNat hfits]) (by simp; omega)]
    simp [slice, Nat.add_comm 1]

theorem echoResponse_wireFrame_iff (std : Byte → U16 → U16 → List Byte → Instr)
    (lxp : Byte → HeaderSerials → U16 → U16 → List Byte → Instr) :
    echoResponse fr (wireFrame a fb hdr body) std lxp = .ok i ↔ ∃ x y extra,
      put16 fr x ++ put16 fr y ++ extra = body ∧ i = hdr.elim (std a x y extra) (lxp a · x y extra) := by
  have hlen := wireFrame_length a fb body h
  by_cases hfour : 4 ≤ body.length
  · have hfirst := get16_wireFrame a fb body h (i := 0) (by omega)
    rw [Nat.add_zero] at hfirst
    rw [echoResponse_eq (by omega), receivedSerials_wireFrame a fb _ h, byteAt_wireFrame_zero, hfirst,
      get16_wireFrame a fb _ h (by omega), slice_wireFrame_rest a fb _ h hfour]
    have hecho (x y : U16) (extra : List Byte) : put16 fr x ++ put16 fr y ++ extra = body ↔
        get16 fr body 0 = x ∧ get16 fr body 2 = y ∧ body.drop 4 = extra := by
      rw [eq_comm, eq_put16_put16_iff]
      exact and_iff_right hfour
    simp [hecho, eq_comm (b := i), -List.append_assoc]
  · rw [echoResponse, if_pos (by omega)]
    refine ⟨fun he => absurd he (by simp), ?_⟩
    rintro ⟨x, y, extra, rfl, -⟩
    simp at hfour
    omega

/-! ### The two decoders on a frame -/

end Frame

/-- A payload of the request or of the response table that fits the framing, found as a function byte and a body. -/
structure Payload.FoundIn (fr : Framing) (req : Bool) (fb : Byte) (body : List Byte) (p : Payload) : Prop where
  isRequest : p.isRequest = req
  function : p.function = fb
  body : p.body fr = body
  fits : p.fits fr = true

section Frame

variable {fr : Framing} {hdr : Option HeaderSerials} (h : Carries fr hdr) (a fb : Byte) (body : List Byte) (i : Instr)
include h

/-- On a frame the request decoder finds exactly the requests with its function byte and body (R105, R108). -/
theorem decodeRequest_wireFrame_iff : decodeRequest fr (wireFrame a fb hdr body) = .ok i ↔
    ∃ p : Payload, p.FoundIn fr true fb body ∧ i = wireRow a hdr p := by
  have hlen := wireFrame_length a fb body h
  by_cases hshort : body.length < 4
  · rw [decodeRequest, if_pos (by omega)]
    refine ⟨fun he => absurd he (by simp), ?_⟩
    rintro ⟨p, ⟨hreq, -, rfl, -⟩, -⟩
    exact absurd (Payload.request_body_length fr hreq) hshort.not_ge
  rw [decodeRequest, if_neg (by omega), if_neg (by simp), byteAt_wireFrame_one]
  constructor
  · intro hok
    split at hok
    case h_1 hfb =>
      obtain ⟨x, y, hbody, rfl⟩ := (pairRequest_wireFrame_iff h ..).mp hok
      exact ⟨.reqRd3 x y, ⟨rfl, BitVec.eq_of_toNat_eq hfb.symm, hbody, rfl⟩, by cases hdr <;> rfl⟩
    case h_2 hfb =>
      obtain ⟨x, y, hbody, rfl⟩ := (pairRequest_wireFrame_iff h ..).mp hok
      exact ⟨.reqRd4 x y, ⟨rfl, BitVec.eq_of_toNat_eq hfb.symm, hbody, rfl⟩, by cases hdr <;> rfl⟩
    case h_3 hfb =>
      obtain ⟨x, y, hbody, rfl⟩ := (pairRequest_wireFrame_iff h ..).mp hok
      exact ⟨.reqWr1 x y, ⟨rfl, BitVec.eq_of_toNat_eq hfb.symm, hbody, rfl⟩, by cases hdr <;> rfl⟩
    case h_4 hfb =>
      obtain ⟨x, vs, hfits, hbody, rfl⟩ := (writeManyRequest_wireFrame_iff h ..).mp hok
      exact ⟨.reqWrn x vs, ⟨rfl, BitVec.eq_of_toNat_eq hfb.symm, hbody, hfits⟩, rfl⟩
    case h_5 => cases hok
  · rintro ⟨p, ⟨hreq, rfl, hbody, hfits⟩, rfl⟩
    cases p with
    | reqRd3 x y | reqRd4 x y | reqWr1 x y =>
      exact (pairRequest_wireFrame_iff h ..).mpr ⟨x, y, hbody, by cases hdr <;> rfl⟩
    | reqWrn x vs => exact (writeManyRequest_wireFrame_iff h ..).mpr ⟨x, vs, hfits, hbody, rfl⟩
    | _ => cases hreq

/-- On a frame that fits the buffer the response decoder finds exactly the responses with its function byte and body
(R106, R109). -/
theorem decodeResponseRow_wireFrame_iff : decodeResponseRow fr (wireFrame a fb hdr body) = .ok i ↔
    ∃ p : Payload, p.FoundIn fr false fb body ∧ i = wireRow a hdr p := by
  have hlen := wireFrame_length a fb body h
  by_cases hbounds : 1 ≤ body.length ∧ headerLength fr + body.length + 2 ≤ 512
  case neg =>
    constructor
    · intro hok
      rw [decodeResponseRow] at hok
      split_ifs at hok <;> simp only [Config.bufSize] at * <;> omega
    · rintro ⟨p, ⟨hreq, -, rfl, hfits⟩, -⟩
      exact absurd (Payload.response_body_length hreq hfits) hbounds
  obtain ⟨hone, hfit⟩ := hbounds
  rw [decodeResponseRow, if_neg (by rw [Config.bufSize]; omega), if_neg (by omega), if_neg (by simp),
    byteAt_wireFrame_one]
  constructor
  · intro hok
    split_ifs at hok with hflag
    · obtain ⟨code, extra, rfl⟩ := List.exists_cons_of_length_pos hone
      rw [exceptionResponse_wireFrame h, Except.ok.injEq] at hok
      exact ⟨.rspExc _ code extra, ⟨rfl, exceptionByte_extract hflag, rfl, exception_fits hfit⟩, hok.symm⟩
    split at hok
    case h_1 hfb =>
      obtain ⟨data, extra, hdata, rfl, rfl⟩ := (readResponse_wireFrame_iff h _ _ _ _ hone ..).mp hok
      exact ⟨.rspRd3 data extra, ⟨rfl, BitVec.eq_of_toNat_eq hfb.symm, rfl, read_fits hdata hfit⟩, by cases hdr <;> rfl⟩
    case h_2 hfb =>
      obtain ⟨data, extra, hdata, rfl, rfl⟩ := (readResponse_wireFrame_iff h _ _ _ _ hone ..).mp hok
      exact ⟨.rspRd4 data extra, ⟨rfl, BitVec.eq_of_toNat_eq hfb.symm, rfl, read_fits hdata hfit⟩, by cases hdr <;> rfl⟩
    case h_3 hfb =>
      obtain ⟨x, y, extra, rfl, rfl⟩ := (echoResponse_wireFrame_iff h ..).mp hok
      exact ⟨.rspWr1 x y extra, ⟨rfl, BitVec.eq_of_toNat_eq hfb.symm, rfl, echo_fits hfit⟩, by cases hdr <;> rfl⟩
    case h_4 hfb =>
      obtain ⟨x, y, extra, rfl, rfl⟩ := (echoResponse_wireFrame_iff h ..).mp hok
      exact ⟨.rspWrn x y extra, ⟨rfl, BitVec.eq_of_toNat_eq hfb.symm, rfl, echo_fits hfit⟩, by cases hdr <;> rfl⟩
    case h_5 => cases hok
  · rintro ⟨p, ⟨hreq, rfl, hbody, hfits⟩, rfl⟩
    cases p with
    | rspExc func code extra =>
      subst hbody
      rw [Payload.function, if_pos (exceptionByte_flag func), Payload.body, exceptionResponse_wireFrame h,
        extract_exceptionByte]
    | rspRd3 data extra | rspRd4 data extra =>
      rw [if_neg (by simp [Payload.function])]
      exact (readResponse_wireFrame_iff h _ _ _ _ hone ..).mpr
        ⟨data, extra, (Bool.and_eq_true_iff.mp hfits).1, hbody, by cases hdr <;> rfl⟩
    | rspWr1 x y extra | rspWrn x y extra =>
      rw [if_neg (by simp [Payload.function])]
      exact (echoResponse_wireFrame_iff h ..).mpr
        ⟨x, y, extra, hbody, by cases hdr <;> rfl⟩
    | _ => cases hreq

end Frame

/-! ### Decoding and encoding -/

theorem decode_of_frames {m : SerialMode} {sp : Space} {fr : Framing} {req : Bool} (hsp : sp.frames m = some (fr, req))
    (buf : List Byte) : decode m sp buf = if req then decodeRequest fr buf else decodeResponseRow fr buf := by
  cases sp <;> cases hsp <;> rfl

/-- A buffer that either decoder of frames accepts is a frame (R33). -/
theorem exists_wireFrame_of_decode {fr : Framing} {req : Bool} {buf : List Byte} {i : Instr}
    (h : (if req then decodeRequest fr buf else decodeResponseRow fr buf) = .ok i) :
    ∃ a fb hdr body, Carries fr hdr ∧ buf = wireFrame a fb hdr body := by
  cases req with
  | true =>
    rw [if_pos rfl, decodeRequest] at h
    split_ifs at h with hl hc
    exact exists_wireFrame (by omega) (eq_true_of_ne_false hc)
  | false =>
    rw [if_neg Bool.false_ne_true, decodeResponseRow] at h
    split_ifs at h with _ hl hc
    all_goals exact exists_wireFrame (by omega) (eq_true_of_ne_false hc)

/-- On a frame either decoder finds exactly the payloads with its function byte and body. -/
theorem decode_wireFrame_iff {fr : Framing} {hdr : Option HeaderSerials} (h : Carries fr hdr) (req : Bool) (a fb : Byte)
    (body : List Byte) (i : Instr) :
    (if req then decodeRequest fr (wireFrame a fb hdr body)
      else decodeResponseRow fr (wireFrame a fb hdr body)) = .ok i ↔
      ∃ p : Payload, p.FoundIn fr req fb body ∧ i = wireRow a hdr p := by
  cases req with
  | true => exact decodeRequest_wireFrame_iff h a fb body i
  | false => exact decodeResponseRow_wireFrame_iff h a fb body i

/-- In a space of frames, to decode to an instruction is to be the encoding of a well-formed one of that space. -/
theorem decode_frames_iff {m : SerialMode} {sp : Space} {fr : Framing} {req : Bool} (hsp : sp.frames m = some (fr, req))
    (buf : List Byte) (i : Instr) :
    decode m sp buf = .ok i ↔ (i.wf m = true ∧ i.space = sp) ∧ encode i = buf := by
  rw [decode_of_frames hsp, wf_and_space_iff hsp]
  constructor
  · intro hok
    obtain ⟨a, fb, hdr, body, hhdr, rfl⟩ := exists_wireFrame_of_decode hok
    obtain ⟨p, ⟨hreq, rfl, rfl, hfits⟩, rfl⟩ := (decode_wireFrame_iff hhdr ..).mp hok
    exact ⟨⟨a, hdr, p, hhdr, hfits, hreq, rfl⟩, encode_wireRow hhdr a p⟩
  · rintro ⟨⟨a, hdr, p, hhdr, hfits, hreq, rfl⟩, rfl⟩
    rw [encode_wireRow hhdr]
    exact (decode_wireFrame_iff hhdr ..).mpr ⟨p, ⟨hreq, rfl, rfl, hfits⟩, rfl⟩

/-- A byte that selects a command is the command's encoding (R101). -/
theorem encode_of_commandOf {op : Byte} {i : Instr} (h : commandOf op = .ok i) : encode i = [op] := by
  unfold commandOf at h
  split at h <;> cases h
  all_goals
    next hop => exact congrArg (fun b : Byte => [b]) (BitVec.eq_of_toNat_eq hop.symm)

theorem wf_of_space_cmd {i : Instr} (m : SerialMode) (h : i.space = .cmd) : i.wf m = true := by
  cases i <;> first | rfl | cases h

theorem decode_encode_of_space_cmd {i : Instr} (m : SerialMode) (h : i.space = .cmd) :
    decode m .cmd (encode i) = .ok i := by
  cases i <;> first | rfl | cases h

/-- In the command space, to decode to an instruction is to be its opcode (R100, R101). -/
theorem decode_cmd_iff (m : SerialMode) (buf : List Byte) (i : Instr) :
    decode m .cmd buf = .ok i ↔ (i.wf m = true ∧ i.space = .cmd) ∧ encode i = buf := by
  constructor
  · intro hok
    match buf, hok with
    | [op], hok =>
      have hspace := Machine.commandOf_space hok
      exact ⟨⟨wf_of_space_cmd m hspace, hspace⟩, encode_of_commandOf hok⟩
  · rintro ⟨⟨-, hi⟩, rfl⟩
    exact decode_encode_of_space_cmd m hi

/-- A byte sequence decodes to an instruction exactly if it is the encoding of that instruction, which is well-formed
and of the space. -/
theorem decode_eq_ok_iff (m : SerialMode) (sp : Space) (buf : List Byte) (i : Instr) :
    decode m sp buf = .ok i ↔ (i.wf m = true ∧ i.space = sp) ∧ encode i = buf := by
  cases sp with
  | cmd => exact decode_cmd_iff m buf i
  | stdReq | stdRsp | lxpReq | lxpRsp => exact decode_frames_iff rfl buf i

/-- Settles O1: an encoding is what decodes to its instruction. -/
theorem decodeOfEncodeIsTheInstruction : Obligations.DecodeOfEncodeIsTheInstruction := by
  unfold Obligations.DecodeOfEncodeIsTheInstruction
  intro m i hwf
  exact (decode_eq_ok_iff ..).mpr ⟨⟨hwf, rfl⟩, rfl⟩

/-- Settles O2: what decodes is the encoding of a well-formed instruction of the space. -/
theorem encodeOfDecodeIsTheBytes : Obligations.EncodeOfDecodeIsTheBytes := by
  unfold Obligations.EncodeOfDecodeIsTheBytes
  intro m sp b i hok
  obtain ⟨⟨hwf, hspace⟩, hbytes⟩ := (decode_eq_ok_iff ..).mp hok
  exact ⟨hbytes, hwf, hspace⟩

end Sys2Proof
end

section
/-! PROOFS. The response decoder on the frame of a response row, and what the wire rows do as instructions: a request
row emits its encoding, a response row reports what the decoder finds in its encoding, and a row without an encoding is
refused (spec 30_encoding.md R105 to R109, 42_std_codec.md R189 to R196, 43_lxp_codec.md R228 to R235). -/

namespace Sys2Proof.Machine

/-! ### What a response row means -/

/-- What RBSER reports of a header: ten zero bytes where it has no serial fields (R48, R198). -/
def reportedBridgeOf (hdr : Option HeaderSerials) : Serial := hdr.elim zeroSerial HeaderSerials.reportedBridge

/-- What RDSER reports of a header (R48, R198). -/
def reportedDeviceOf (hdr : Option HeaderSerials) : Serial := hdr.elim zeroSerial HeaderSerials.reportedDevice

/-- The record of a good response: its header, and nothing yet of what stands behind it (R191, R229). -/
def rowRecord (d : Diag) (a : Byte) (func : BitVec 7) (hdr : Option HeaderSerials) : Decoded :=
  { diag := d, addr := a, func := func, rbser := reportedBridgeOf hdr, rdser := reportedDeviceOf hdr }

/-- The record of a read response with a data segment (R194, R233). -/
def readRecord (fr : Framing) (a : Byte) (func : BitVec 7) (hdr : Option HeaderSerials) (data : List Byte) : Decoded :=
  { rowRecord .none a func hdr with
    rlen := BitVec.ofNat 8 data.length
    values := valuesOf fr data
    serout := if reportsSerial fr data.length then serialOf (data.map sanitize) else zeroSerial
    serValid := reportsSerial fr data.length }

/-- The record a response row stands for; a request row stands for none, and gets the bare header. -/
def rowDecoded (fr : Framing) (a : Byte) (hdr : Option HeaderSerials) : Payload → Decoded
  | .rspExc func code _ => { rowRecord .exceptionResponse a func hdr with excf := true, exc := code }
  | .rspRd3 data _ => readRecord fr a 3 hdr data
  | .rspRd4 data _ => readRecord fr a 4 hdr data
  | .rspWr1 x y _ => { rowRecord .none a 6 hdr with rstart := x, rcount := y }
  | .rspWrn x y _ => { rowRecord .none a 16 hdr with rstart := x, rcount := y }
  | .reqRd3 .. | .reqRd4 .. | .reqWr1 .. | .reqWrn .. => rowRecord .none a 0 hdr

/-- The values of a data segment do not depend on the strap (R72). -/
theorem valuesOf_lxp (m m' : SerialMode) (data : List Byte) : valuesOf (.lxp m) data = valuesOf (.lxp m') data := by
  induction data using valuesOf.induct with
  | case1 x y rest ih => rw [valuesOf, valuesOf, ih]; rfl
  | case2 l hl =>
    match l, hl with
    | [], _ => rfl
    | [_], _ => rfl
    | x :: y :: rest, hl => exact absurd rfl (hl x y rest)

/-- Only a data segment of ten bytes is reported as a serial (R233). -/
theorem length_of_reportsSerial {fr : Framing} {n : Nat} (h : reportsSerial fr n = true) : n = 10 := by
  cases fr with
  | std => cases h
  | lxp m => exact beq_iff_eq.mp h

theorem reportsSerial_lxp (m : SerialMode) (n : Nat) : reportsSerial (.lxp m) n = (n == 10) := rfl

/-- A Standard response row reports its record (R106). -/
theorem exec_wireRow_none {s : State} {a : Byte} {p : Payload} (hreq : p.isRequest = false)
    (hwf : (wireRow a none p).wf s.serialMode = true) :
    exec (wireRow a none p) s = report (rowDecoded .std a none p) s := by
  cases p with
  | rspExc | rspRd3 | rspRd4 | rspWr1 | rspWrn => exact ifEncodable_of_wf hwf
  | _ => cases hreq

/-- A Proprietary response row reports its record (R109). -/
theorem exec_wireRow_some {s : State} {a : Byte} {ser : HeaderSerials} {p : Payload} (hreq : p.isRequest = false)
    (hwf : (wireRow a (some ser) p).wf s.serialMode = true) :
    exec (wireRow a (some ser) p) s = report (rowDecoded (.lxp s.serialMode) a (some ser) p) s := by
  have hread (func : BitVec 7) (data : List Byte) :
      readReport func a ser data = readRecord (.lxp s.serialMode) a func (some ser) data := by
    rw [readReport, readRecord, valuesOf_lxp .both s.serialMode, reportsSerial_lxp]
    simp only [beq_iff_eq]
    rfl
  cases p with
  | rspExc | rspWr1 | rspWrn => exact ifEncodable_of_wf hwf
  | rspRd3 data _ | rspRd4 data _ => exact (ifEncodable_of_wf hwf).trans (congrArg (report · s) (hread _ data))
  | _ => cases hreq

/-! ### What the decoder finds on a frame -/

/-- A read response that fits its buffer, as one record (R194, R233). -/
theorem decodeRead_eq_of_fits {fr : Framing} {buf : List Byte}
    (h : headerLength fr + 1 + (byteAt buf (headerLength fr)).toNat + 2 ≤ buf.length) :
    decodeRead fr buf = { headerOf fr buf .none with
      rlen := byteAt buf (headerLength fr)
      values := (List.range ((byteAt buf (headerLength fr)).toNat / 2)).map
        (fun i => get16 fr buf (headerLength fr + 1 + 2 * i))
      serout := if reportsSerial fr (byteAt buf (headerLength fr)).toNat then
          serialOf ((slice buf (headerLength fr + 1) (headerLength fr + 11)).map sanitize)
        else zeroSerial
      serValid := reportsSerial fr (byteAt buf (headerLength fr)).toNat } := by
  rw [decodeRead, if_neg h.not_gt]
  cases reportsSerial fr (byteAt buf (headerLength fr)).toNat <;> rfl

/-- The exception flag is the top bit of the function byte (R104). -/
theorem flag_eq_decide (fb : Byte) : fb.getLsbD 7 = decide (128 ≤ fb.toNat) := by
  have htop := BitVec.msb_eq_getLsbD_last fb
  rw [BitVec.msb_eq_decide] at htop
  exact htop.symm

section Frame

variable {fr : Framing} {hdr : Option HeaderSerials} (h : Carries fr hdr) (a : Byte) {fb : Byte}
include h

/-- The header reported of a frame is the one it was made with (R191, R229). -/
theorem headerOf_wireFrame (body : List Byte) (d : Diag) : headerOf fr (wireFrame a fb hdr body) d =
    { rowRecord d a (fb.extractLsb' 0 7) hdr with excf := fb.getLsbD 7 } := by
  have hser := receivedSerials_wireFrame a fb body h
  rw [headerOf, byteAt_wireFrame_zero, byteAt_wireFrame_one]
  cases h with
  | std => rfl
  | lxp h =>
    rw [headerReport, Option.some_inj.mp hser]
    rfl

theorem decodeResponse_wireFrame_exception {code : Byte} {extra : List Byte} (hflag : fb.getLsbD 7 = true) :
    decodeResponse fr (wireFrame a fb hdr (code :: extra)) =
      { rowRecord .exceptionResponse a (fb.extractLsb' 0 7) hdr with excf := true, exc := code } := by
  have hlen := wireFrame_length a fb (code :: extra) h
  have hcode := byteAt_wireFrame a fb (code :: extra) h (i := 0) (by simp)
  rw [Nat.add_zero] at hcode
  rw [decodeResponse_of_flag (by rw [hlen, List.length_cons]; omega) (crcOk_wireFrame ..) hflag, hcode,
    headerOf_wireFrame h, hflag]
  rfl

theorem decodeResponse_wireFrame_read {data extra : List Byte} (hfb : fb.toNat = 3 ∨ fb.toNat = 4)
    (hdata : dataFits data = true) :
    decodeResponse fr (wireFrame a fb hdr (lengthByte data :: (data ++ extra))) =
      readRecord fr a (fb.extractLsb' 0 7) hdr data := by
  have hlen := wireFrame_length a fb (lengthByte data :: (data ++ extra)) h
  rw [List.length_cons, List.length_append] at hlen
  have hflag : fb.getLsbD 7 = false := by
    rw [flag_eq_decide]
    exact decide_eq_false (by omega)
  have hdecl := byteAt_wireFrame a fb (lengthByte data :: (data ++ extra)) h (i := 0) (by simp)
  rw [Nat.add_zero, byteAt_cons_zero] at hdecl
  have hn := lengthByte_toNat hdata
  have hvalue (i : Nat) (hi : i < data.length / 2) :
      get16 fr (wireFrame a fb hdr (lengthByte data :: (data ++ extra))) (headerLength fr + 1 + 2 * i) =
        get16 fr (data ++ extra) (2 * i) := by
    rw [Nat.add_assoc, get16_wireFrame a fb _ h (by rw [List.length_cons, List.length_append]; omega), Nat.add_comm 1,
      get16_cons_succ]
  have hvalues : (List.range (data.length / 2)).map (fun i =>
      get16 fr (wireFrame a fb hdr (lengthByte data :: (data ++ extra))) (headerLength fr + 1 + 2 * i)) =
        valuesOf fr data := by
    rw [valuesOf_eq_map fr data extra]
    exact List.map_congr_left fun i hi => hvalue i (List.mem_range.mp hi)
  have hserial (hten : data.length = 10) : slice (wireFrame a fb hdr (lengthByte data :: (data ++ extra)))
      (headerLength fr + 1) (headerLength fr + 11) = data := by
    rw [slice_wireFrame a fb _ h (by omega) (by rw [List.length_cons, List.length_append]; omega)]
    exact (congrArg (List.take · (data ++ extra)) hten.symm).trans List.take_left
  have hserout : (if reportsSerial fr data.length = true then
      serialOf ((slice (wireFrame a fb hdr (lengthByte data :: (data ++ extra))) (headerLength fr + 1)
        (headerLength fr + 11)).map sanitize) else zeroSerial) =
      if reportsSerial fr data.length = true then serialOf (data.map sanitize) else zeroSerial := by
    split_ifs with hrep
    · rw [hserial (length_of_reportsSerial hrep)]
    · rfl
  rw [decodeResponse_of_read (by omega) (crcOk_wireFrame ..) hflag (by rw [byteAt_wireFrame_one]; omega),
    decodeRead_eq_of_fits (by rw [hdecl]; omega), headerOf_wireFrame h, hflag, hdecl, hn, hvalues, hserout]
  rfl

theorem decodeResponse_wireFrame_echo {x y : U16} {extra : List Byte} (hfb : fb.toNat = 6 ∨ fb.toNat = 16) :
    decodeResponse fr (wireFrame a fb hdr (put16 fr x ++ put16 fr y ++ extra)) =
      { rowRecord .none a (fb.extractLsb' 0 7) hdr with rstart := x, rcount := y } := by
  obtain ⟨hfour, hx, hy, -⟩ := (eq_put16_put16_iff fr _ x y extra).mp rfl
  have hlen := wireFrame_length a fb (put16 fr x ++ put16 fr y ++ extra) h
  have hflag : fb.getLsbD 7 = false := by
    rw [flag_eq_decide]
    exact decide_eq_false (by omega)
  have hfirst := get16_wireFrame a fb (put16 fr x ++ put16 fr y ++ extra) h (i := 0) (by omega)
  have hsecond := get16_wireFrame a fb (put16 fr x ++ put16 fr y ++ extra) h (i := 2) (by omega)
  rw [Nat.add_zero] at hfirst
  rw [decodeResponse_of_echo (by omega) (crcOk_wireFrame ..) hflag (by rw [byteAt_wireFrame_one]; omega),
    decodeEcho_of_fits (by omega), headerOf_wireFrame h, hflag, hfirst, hx, hsecond, hy]
  rfl

/-- On the frame of a response row that fits, the decoder finds the row's record. -/
theorem decodeResponse_wireFrame {p : Payload} (hreq : p.isRequest = false) (hfits : p.fits fr = true) :
    decodeResponse fr (wireFrame a p.function hdr (p.body fr)) = rowDecoded fr a hdr p := by
  cases p with
  | rspExc func code extra =>
    refine (decodeResponse_wireFrame_exception h a (exceptionByte_flag func)).trans ?_
    rw [extract_exceptionByte]
    rfl
  | rspRd3 data extra =>
    exact decodeResponse_wireFrame_read h a (.inl rfl) (Bool.and_eq_true_iff.mp hfits).1
  | rspRd4 data extra =>
    exact decodeResponse_wireFrame_read h a (.inr rfl) (Bool.and_eq_true_iff.mp hfits).1
  | rspWr1 x y extra => exact decodeResponse_wireFrame_echo h a (.inl rfl)
  | rspWrn x y extra => exact decodeResponse_wireFrame_echo h a (.inr rfl)
  | _ => cases hreq

end Frame

/-! ### The wire rows as instructions -/

/-- Settles O46: a response row is a header and a payload, whose record is both what the row reports and what the
decoder finds on the frame. -/
theorem responseRowsReportTheirDecoding : Obligations.ResponseRowsReportTheirDecoding := by
  unfold Obligations.ResponseRowsReportTheirDecoding
  intro s i fr hwf hspace
  have hframes : i.space.frames s.serialMode = some (fr, false) := by
    rcases hspace with ⟨hi, rfl⟩ | ⟨hi, rfl⟩ <;> rw [hi] <;> rfl
  obtain ⟨a, hdr, p, hhdr, hfits, hreq, rfl⟩ := (wf_and_space_iff hframes i).mp ⟨hwf, rfl⟩
  rw [encode_wireRow hhdr, decodeResponse_wireFrame hhdr a hreq hfits]
  cases hhdr with
  | std => exact exec_wireRow_none hreq hwf
  | lxp =>
    rw [frames_space_wireRow_some] at hframes
    obtain ⟨hfr, -⟩ := Prod.mk.inj (Option.some.inj hframes)
    obtain rfl := Framing.lxp.inj hfr
    exact exec_wireRow_some hreq hwf

/-- Settles O47: the buffer is the encoding of the row, so what the decoder finds in it is what the row reports. -/
theorem decodeCommandsRunTheRowInTheBuffer : Obligations.DecodeCommandsRunTheRowInTheBuffer := by
  unfold Obligations.DecodeCommandsRunTheRowInTheBuffer
  intro s i
  constructor
  · intro hok
    obtain ⟨hbytes, hwf, hspace⟩ := encodeOfDecodeIsTheBytes _ _ _ _ hok
    rw [exec_decoder (.inl ⟨rfl, rfl⟩), ← hbytes, responseRowsReportTheirDecoding s i .std hwf (.inl ⟨hspace, rfl⟩)]
  · intro hok
    obtain ⟨hbytes, hwf, hspace⟩ := encodeOfDecodeIsTheBytes _ _ _ _ hok
    rw [exec_decoder (.inr ⟨rfl, rfl⟩), ← hbytes, responseRowsReportTheirDecoding s i _ hwf (.inr ⟨hspace, rfl⟩)]

/-- A request row emits its encoding (R182, R184, R186, R222 to R224). -/
theorem exec_request_row {s : State} {i : Instr} (hspace : i.space = .stdReq ∨ i.space = .lxpReq)
    (hwf : i.wf s.serialMode = true) : exec i s = emitFrame (encode i) s := by
  cases i with
  | stdReqRd3 | stdReqRd4 | stdReqWr1 => rfl
  | stdReqWrn | lxpReqRd3 | lxpReqRd4 | lxpReqWr1 | lxpReqWrn => exact ifEncodable_of_wf hwf
  | _ => rcases hspace with hspace | hspace <;> cases hspace

/-- Settles O45: every request row emits its encoding. -/
theorem requestRowsBuildTheirEncoding : Obligations.RequestRowsBuildTheirEncoding := by
  unfold Obligations.RequestRowsBuildTheirEncoding
  intro s i hspace hwf
  rw [exec_request_row hspace hwf, emitFrame_eq]

theorem ifEncodable_of_not_wf {i : Instr} {s : State} {r : Result} (h : i.wf s.serialMode = false) :
    ifEncodable i s r = .refused .notEncodable :=
  if_neg (ne_true_of_eq_false h)

/-- Settles O48: a row whose term can be ill-formed checks it; commands and the short Standard requests are
well-formed. -/
theorem illFormedRowsAreRefused : Obligations.IllFormedRowsAreRefused := by
  unfold Obligations.IllFormedRowsAreRefused
  intro s i hwf
  cases i with
  | stdReqWrn | stdRspExc | stdRspRd3 | stdRspRd4 | stdRspWr1 | stdRspWrn
  | lxpReqRd3 | lxpReqRd4 | lxpReqWr1 | lxpReqWrn | lxpRspExc | lxpRspRd3 | lxpRspRd4 | lxpRspWr1 | lxpRspWrn =>
    exact ifEncodable_of_not_wf hwf
  | _ => cases hwf

end Sys2Proof.Machine
end

section
/-! PROOFS. What each response row leaves in the result registers (spec 42_std_codec.md R192 to R196, 43_lxp_codec.md
R230 to R235, 10_state.md R45). -/

namespace Sys2Proof.Machine

/-- The low byte of RSTAT: DIAG, SER_VALID, NEED_MORE and KIND (R45). -/
def statusByte (d : Diag) (serValid : Bool) : Byte :=
  diagCode d ++ BitVec.ofBool serValid ++ BitVec.ofBool (diagNeedMore d) ++ kindCode (diagKind d)

/-- Appending the four status fields one by one is appending them as one byte. -/
theorem append_status (x : BitVec 24) (diag : BitVec 4) (serValid needMore : BitVec 1) (kind : BitVec 2) :
    x ++ diag ++ serValid ++ needMore ++ kind = x ++ (diag ++ serValid ++ needMore ++ kind) := by
  apply BitVec.eq_of_getLsbD_eq
  intro i _
  simp only [BitVec.getLsbD_append, Nat.sub_sub]
  split_ifs <;> first | rfl | omega

/-- RSTAT is the address, the code, the flag and the function code above its low byte (R45). -/
theorem packRstat_eq (d : Diag) (serValid : Bool) (func : BitVec 7) (excf : Bool) (exc addr : Byte) :
    packRstat d serValid func excf exc addr = addr ++ exc ++ BitVec.ofBool excf ++ func ++ statusByte d serValid :=
  append_status (addr ++ exc ++ BitVec.ofBool excf ++ func) _ _ _ _

theorem statusByte_none : statusByte .none false = 0x00#8 := by decide
theorem statusByte_serial : statusByte .none true = 0x08#8 := by decide
theorem statusByte_exception : statusByte .exceptionResponse false = 0x61#8 := by decide

/-- A decode command or response row writes all decode results and CERR 0, and nothing else (R53, R198, R237). -/
theorem report_eq (d : Decoded) (s : State) : report d s = .next { s with
    rstat := packRstat d.diag d.serValid d.func d.excf d.exc d.addr, rstart := d.rstart, rcount := d.rcount
    nval := BitVec.ofNat 8 d.values.length, rlen := d.rlen, rval := cellsOf d.values
    rbser := d.rbser, rdser := d.rdser, serout := d.serout, cstat := 0 } := rfl

/-- The values of a data segment by their index (R194, R233). -/
theorem valuesOf_eq_map_range (fr : Framing) (data : List Byte) :
    valuesOf fr data = (List.range (data.length / 2)).map (fun i => get16 fr data (2 * i)) := by
  have hvals := valuesOf_eq_map fr data []
  rwa [List.append_nil] at hvals

/-- What a read response leaves, in either framing (R194, R233). -/
theorem report_readRecord (fr : Framing) (a : Byte) (func : BitVec 7) (hdr : Option HeaderSerials) (data : List Byte)
    (s : State) : report (readRecord fr a func hdr data) s = .next { s with
      rstat := a ++ 0#8 ++ 0#1 ++ func ++ statusByte .none (reportsSerial fr data.length), rstart := 0, rcount := 0
      nval := BitVec.ofNat 8 (data.length / 2), rlen := BitVec.ofNat 8 data.length
      rval := cellsOf ((List.range (data.length / 2)).map (fun i => get16 fr data (2 * i)))
      rbser := reportedBridgeOf hdr, rdser := reportedDeviceOf hdr
      serout := if reportsSerial fr data.length then serialOf (data.map sanitize) else zeroSerial, cstat := 0 } := by
  rw [report_eq, packRstat_eq, ← valuesOf_eq_map_range]
  simp only [readRecord, valuesOf_length]
  rfl

/-- What a Standard read response leaves: no data segment is a serial (R198). -/
theorem report_readRecord_std (a : Byte) (func : BitVec 7) (data : List Byte) (s : State) :
    report (readRecord .std a func none data) s = .next { s with
      rstat := a ++ 0#8 ++ 0#1 ++ func ++ 0x00#8, rstart := 0, rcount := 0
      nval := BitVec.ofNat 8 (data.length / 2), rlen := BitVec.ofNat 8 data.length
      rval := cellsOf ((List.range (data.length / 2)).map (fun i => be16 data (2 * i)))
      rbser := zeroSerial, rdser := zeroSerial, serout := zeroSerial, cstat := 0 } := by
  rw [report_readRecord, reportsSerial, if_neg Bool.false_ne_true, statusByte_none]
  rfl

/-- What an exception response leaves, in either framing (R192, R230). -/
theorem report_exceptionRecord (a : Byte) (func : BitVec 7) (hdr : Option HeaderSerials) (code : Byte) (s : State) :
    report { rowRecord .exceptionResponse a func hdr with excf := true, exc := code } s = .next { s with
      rstat := a ++ code ++ 1#1 ++ func ++ 0x61#8, rstart := 0, rcount := 0, nval := 0, rlen := 0, rval := []
      rbser := reportedBridgeOf hdr, rdser := reportedDeviceOf hdr, serout := zeroSerial, cstat := 0 } := by
  simp only [report_eq, packRstat_eq, rowRecord, statusByte_exception]
  rfl

/-- What a write echo leaves, in either framing (R195, R196, R234, R235). -/
theorem report_echoRecord (a : Byte) (func : BitVec 7) (hdr : Option HeaderSerials) (x y : U16) (s : State) :
    report { rowRecord .none a func hdr with rstart := x, rcount := y } s = .next { s with
      rstat := a ++ 0#8 ++ 0#1 ++ func ++ 0x00#8, rstart := x, rcount := y, nval := 0, rlen := 0, rval := []
      rbser := reportedBridgeOf hdr, rdser := reportedDeviceOf hdr, serout := zeroSerial, cstat := 0 } := by
  simp only [report_eq, packRstat_eq, rowRecord, statusByte_none]
  rfl

/-- Settles O49: each Standard row reports its record, and the three shapes of record are known. -/
theorem stdResponseRowResults : Obligations.StdResponseRowResults := by
  unfold Obligations.StdResponseRowResults
  intro s a func code x y data extra
  refine ⟨fun hwf => ?_, fun c f hc hwf => ?_, fun c f hc hwf => ?_⟩
  · exact (exec_wireRow_none (p := .rspExc func code extra) rfl hwf).trans (report_exceptionRecord a func none code s)
  · rcases hc with ⟨rfl, rfl⟩ | ⟨rfl, rfl⟩
    · exact (exec_wireRow_none (p := .rspRd3 data extra) rfl hwf).trans (report_readRecord_std a 3 data s)
    · exact (exec_wireRow_none (p := .rspRd4 data extra) rfl hwf).trans (report_readRecord_std a 4 data s)
  · rcases hc with ⟨rfl, rfl⟩ | ⟨rfl, rfl⟩
    · exact (exec_wireRow_none (p := .rspWr1 x y extra) rfl hwf).trans (report_echoRecord a 6 none x y s)
    · exact (exec_wireRow_none (p := .rspWrn x y extra) rfl hwf).trans (report_echoRecord a 16 none x y s)

/-- What a Proprietary read response leaves: a data segment of ten bytes is a serial too (R233). -/
theorem report_readRecord_lxp (m : SerialMode) (a : Byte) (func : BitVec 7) (ser : HeaderSerials) (data : List Byte)
    (s : State) : report (readRecord (.lxp m) a func (some ser) data) s = .next { s with
      rstat := a ++ 0#8 ++ 0#1 ++ func ++ (if data.length = 10 then 0x08#8 else 0x00#8), rstart := 0, rcount := 0
      nval := BitVec.ofNat 8 (data.length / 2), rlen := BitVec.ofNat 8 data.length
      rval := cellsOf ((List.range (data.length / 2)).map (fun i => le16 data (2 * i)))
      rbser := ser.reportedBridge, rdser := ser.reportedDevice
      serout := if data.length = 10 then serialOf (data.map sanitize) else zeroSerial, cstat := 0 } := by
  rw [report_readRecord, reportsSerial_lxp]
  by_cases hten : data.length = 10
  · rw [if_pos hten, if_pos hten, beq_iff_eq.mpr hten, if_pos rfl, statusByte_serial]
    rfl
  · rw [if_neg hten, if_neg hten, beq_eq_false_iff_ne.mpr hten, if_neg Bool.false_ne_true, statusByte_none]
    rfl

/-- Settles O50: each Proprietary row reports its record, and the three shapes of record are known. -/
theorem lxpResponseRowResults : Obligations.LxpResponseRowResults := by
  unfold Obligations.LxpResponseRowResults
  intro s a ser func code x y data extra
  refine ⟨fun hwf => ?_, fun c f hc hwf => ?_, fun c f hc hwf => ?_⟩
  · exact (exec_wireRow_some (p := .rspExc func code extra) rfl hwf).trans
      (report_exceptionRecord a func (some ser) code s)
  · rcases hc with ⟨rfl, rfl⟩ | ⟨rfl, rfl⟩
    · exact (exec_wireRow_some (p := .rspRd3 data extra) rfl hwf).trans (report_readRecord_lxp _ a 3 ser data s)
    · exact (exec_wireRow_some (p := .rspRd4 data extra) rfl hwf).trans (report_readRecord_lxp _ a 4 ser data s)
  · rcases hc with ⟨rfl, rfl⟩ | ⟨rfl, rfl⟩
    · exact (exec_wireRow_some (p := .rspWr1 x y extra) rfl hwf).trans (report_echoRecord a 6 (some ser) x y s)
    · exact (exec_wireRow_some (p := .rspWrn x y extra) rfl hwf).trans (report_echoRecord a 16 (some ser) x y s)

end Sys2Proof.Machine
end

section
/-! PROOFS. The step that runs a presented row: the carrier command, on the loaded operands, does what the row means
(spec 30_encoding.md R104, R110, R115). -/

namespace Sys2Proof.Machine

/-- A response row's encoding fits IBUF (R11). -/
theorem encode_response_length_le {i : Instr} {m : SerialMode} {fr : Framing}
    (hsp : i.space.frames m = some (fr, false)) (hwf : i.wf m = true) : (encode i).length ≤ 512 := by
  obtain ⟨a, hdr, p, hhdr, hfits, hreq, rfl⟩ := (wf_and_space_iff hsp i).mp ⟨hwf, rfl⟩
  rw [encode_wireRow hhdr, wireFrame_length _ _ _ hhdr]
  exact (Payload.response_body_length hreq hfits).2

/-! ### The loaded operands -/

/-- A byte sequence loaded into IBUF is the input (R115). -/
theorem input_of_loaded {s : State} {buf : List Byte} {c : Memory} (hbuf : s.ibuf = writeCells 0 buf c)
    (hlen : s.ilen.toNat = buf.length) : s.input = buf := by
  rw [State.input, hlen, hbuf]
  exact map_getD_range buf _ _ fun i hi => by simpa using readCell_writeCells buf 0 c hi

/-- Values loaded into WVAL are the values of a write-multiple (R115). -/
theorem writeValues_of_loaded {s : State} {vs : List U16} {c : Cells 16} (hval : s.wval = writeCells 0 vs c)
    (hlen : s.count.toNat = vs.length) : s.writeValues = vs := by
  rw [State.writeValues, hlen, hval]
  exact map_getD_range vs _ _ fun i hi => by simpa using readCell_writeCells vs 0 c hi

theorem loadSerials_pending (s : State) (ser : HeaderSerials) : (s.loadSerials ser).pending = s.pending := by
  cases ser <;> rfl

theorem loadSerials_serialMode (s : State) (ser : HeaderSerials) :
    (s.loadSerials ser).serialMode = s.serialMode := by
  cases ser <;> rfl

/-- The serials the strap selects from registers that hold a header's are the header's (R220). -/
theorem selectSerials_loadSerials {m : SerialMode} {ser : HeaderSerials} (s : State) (h : ser.fits m = true) :
    selectSerials m (s.loadSerials ser).bser (s.loadSerials ser).dser = ser := by
  cases m <;> cases ser <;> first | rfl | cases h

/-- Loading operands leaves the accesses to come as they are. -/
theorem loadOperands_pending (s : State) (i : Instr) : (s.loadOperands i).pending = s.pending := by
  cases i with
  | lxpReqRd3 a ser | lxpReqRd4 a ser | lxpReqWr1 a ser | lxpReqWrn a ser => exact loadSerials_pending s ser
  | _ => rfl

theorem loadOperands_serialMode (s : State) (i : Instr) : (s.loadOperands i).serialMode = s.serialMode := by
  cases i with
  | lxpReqRd3 a ser | lxpReqRd4 a ser | lxpReqWr1 a ser | lxpReqWrn a ser => exact loadSerials_serialMode s ser
  | _ => rfl

/-! ### The carrier command -/

/-- The command whose opcode carries a row (R101, R104). -/
def carrier : Instr → Instr
  | .stdReqRd3 .. | .stdReqRd4 .. => .stdRd
  | .stdReqWr1 .. => .stdWr1
  | .stdReqWrn .. => .stdWrn
  | .stdRspExc .. | .stdRspRd3 .. | .stdRspRd4 .. | .stdRspWr1 .. | .stdRspWrn .. => .stdDec
  | .lxpReqRd3 .. | .lxpReqRd4 .. => .lxpRd
  | .lxpReqWr1 .. => .lxpWr1
  | .lxpReqWrn .. => .lxpWrn
  | .lxpRspExc .. | .lxpRspRd3 .. | .lxpRspRd4 .. | .lxpRspWr1 .. | .lxpRspWrn .. => .lxpDec
  | i => i

theorem decode_carrierOpcode (m : SerialMode) (i : Instr) :
    decode m .cmd [BitVec.ofNat 8 (carrierOpcode i)] = .ok (carrier i) := by
  cases i <;> rfl

/-- The step after a presentation runs the carrier on the loaded operands. -/
theorem step_present (s : State) (i : Instr) :
    step (s.present i) = exec (carrier i) ((s.present i).arrive s.pending) := by
  have hpending : (s.present i).pending = .write 0x000 (carrierOpcode i) :: s.pending :=
    congrArg (HostEvent.write 0x000 (carrierOpcode i) :: ·) (loadOperands_pending s i)
  exact (stepRunsTheCommandWritten _ _ _ (carrier i)).1 hpending (decode_carrierOpcode _ i)

/-- A response row, its bytes in the buffer, is what the decoder command finds there. -/
theorem exec_decoder_of_loaded {s : State} {i c : Instr} {fr : Framing}
    (hc : (c = .stdDec ∧ fr = .std) ∨ (c = .lxpDec ∧ fr = .lxp s.serialMode))
    (hi : (i.space = .stdRsp ∧ fr = .std) ∨ (i.space = .lxpRsp ∧ fr = .lxp s.serialMode))
    (hwf : i.wf s.serialMode = true) (hinput : s.input = encode i) : exec c s = exec i s := by
  rw [exec_decoder hc, hinput, responseRowsReportTheirDecoding s i fr hwf hi]

/-- A request row finds the serials that were loaded for it, where the strap has room for them (R220). -/
theorem presented_headerSerials {s : State} {i : Instr} {ser : HeaderSerials} (h : ser.fits s.serialMode = true)
    (hbser : (s.loadOperands i).bser = (s.loadSerials ser).bser)
    (hdser : (s.loadOperands i).dser = (s.loadSerials ser).dser) :
    ((s.present i).arrive s.pending).headerSerials = ser := by
  simp only [State.headerSerials, State.present, State.arrive_serialMode, State.arrive_bser, State.arrive_dser,
    State.issue_serialMode, State.issue_bser, State.issue_dser]
  rw [loadOperands_serialMode, hbser, hdser, selectSerials_loadSerials s h]

section Carriers

variable {s : State} {a : Byte} {ser : HeaderSerials} {x y : U16} {vs : List U16}

/-! Each encoder command, on registers that hold a row's fields. -/

theorem exec_stdRd_of_loaded {f : BitVec 1} (ha : s.addr = a) (hf : s.fsel = f) (hx : s.start = x) (hy : s.count = y) :
    exec .stdRd s = emitFrame (stdEncRead a f x y) s := by
  rw [exec_stdRd, ha, hf, hx, hy]

theorem exec_stdWr1_of_loaded (ha : s.addr = a) (hx : s.start = x) (hy : s.count = y) :
    exec .stdWr1 s = emitFrame (stdEncWrite1 a x y) s := by
  rw [exec_stdWr1, ha, hx, hy]

theorem exec_stdWrn_of_loaded {c : Cells 16} (ha : s.addr = a) (hx : s.start = x) (hval : s.wval = writeCells 0 vs c)
    (hcount : s.count = BitVec.ofNat 16 vs.length) (hvs : vs.length ≤ 127) :
    exec .stdWrn s = emitFrame (stdEncWriten a x vs) s := by
  have hlen : s.count.toNat = vs.length := by rw [hcount, BitVec.toNat_ofNat, Nat.mod_eq_of_lt (by omega)]
  rw [exec_stdWrn_of_le (by omega), writeValues_of_loaded hval hlen, ha, hx]

theorem exec_lxpRd_of_loaded {f : BitVec 1} (ha : s.addr = a) (hf : s.fsel = f) (hser : s.headerSerials = ser)
    (hx : s.start = x) (hy : s.count = y) : exec .lxpRd s = emitFrame (lxpEncRead a f ser x y) s := by
  rw [exec_lxpRd, ha, hf, hser, hx, hy]

theorem exec_lxpWr1_of_loaded (ha : s.addr = a) (hser : s.headerSerials = ser) (hx : s.start = x) (hy : s.count = y) :
    exec .lxpWr1 s = emitFrame (lxpEncWrite1 a ser x y) s := by
  rw [exec_lxpWr1, ha, hser, hx, hy]

theorem exec_lxpWrn_of_loaded {c : Cells 16} (ha : s.addr = a) (hser : s.headerSerials = ser) (hx : s.start = x)
    (hval : s.wval = writeCells 0 vs c) (hcount : s.count = BitVec.ofNat 16 vs.length) (hvs : vs.length ≤ 127) :
    exec .lxpWrn s = emitFrame (lxpEncWriten a ser x vs) s := by
  have hlen : s.count.toNat = vs.length := by rw [hcount, BitVec.toNat_ofNat, Nat.mod_eq_of_lt (by omega)]
  rw [exec_lxpWrn_of_le (by omega), writeValues_of_loaded hval hlen, ha, hser, hx]

end Carriers

/-- A response row's encoding, loaded into IBUF with its length in ILEN, is the input. -/
theorem input_of_loaded_encoding {s : State} {i : Instr} {c : Memory} {m : SerialMode} {fr : Framing}
    (hsp : i.space.frames m = some (fr, false)) (hwf : i.wf m = true)
    (hbuf : s.ibuf = writeCells 0 (encode i) c) (hlen : s.ilen = BitVec.ofNat 16 (encode i).length) :
    s.input = encode i := by
  have hfits := encode_response_length_le hsp hwf
  exact input_of_loaded hbuf (by rw [hlen, BitVec.toNat_ofNat, Nat.mod_eq_of_lt (by omega)])

/-- Settles O5: the step runs the carrier, whose operands or input are the row's fields or bytes. -/
theorem stepRunsThePresentedInstruction : Obligations.StepRunsThePresentedInstruction := by
  unfold Obligations.StepRunsThePresentedInstruction
  intro s i hwf
  rw [step_present]
  have hmode : ((s.present i).arrive s.pending).serialMode = s.serialMode := loadOperands_serialMode s i
  have hwft : i.wf ((s.present i).arrive s.pending).serialMode = true := hmode ▸ hwf
  cases i with
  | stdReqRd3 | stdReqRd4 =>
    exact (exec_stdRd_of_loaded rfl rfl rfl rfl).trans (exec_request_row (.inl rfl) hwft).symm
  | stdReqWr1 => exact (exec_stdWr1_of_loaded rfl rfl rfl).trans (exec_request_row (.inl rfl) hwft).symm
  | stdReqWrn a start vs =>
    exact (exec_stdWrn_of_loaded rfl rfl rfl rfl (Laws.length_of_countFits hwf)).trans
      (exec_request_row (.inl rfl) hwft).symm
  | lxpReqRd3 a ser x y =>
    have hser := presented_headerSerials (i := .lxpReqRd3 a ser x y) hwf rfl rfl
    exact (exec_lxpRd_of_loaded rfl rfl hser rfl rfl).trans
      (exec_request_row (.inr rfl) hwft).symm
  | lxpReqRd4 a ser x y =>
    have hser := presented_headerSerials (i := .lxpReqRd4 a ser x y) hwf rfl rfl
    exact (exec_lxpRd_of_loaded rfl rfl hser rfl rfl).trans
      (exec_request_row (.inr rfl) hwft).symm
  | lxpReqWr1 a ser x y =>
    have hser := presented_headerSerials (i := .lxpReqWr1 a ser x y) hwf rfl rfl
    exact (exec_lxpWr1_of_loaded rfl hser rfl rfl).trans (exec_request_row (.inr rfl) hwft).symm
  | lxpReqWrn a ser start vs =>
    obtain ⟨hfits, hcount⟩ := Bool.and_eq_true_iff.mp hwf
    have hser := presented_headerSerials (i := .lxpReqWrn a ser start vs) hfits rfl rfl
    exact (exec_lxpWrn_of_loaded rfl hser rfl rfl rfl (Laws.length_of_countFits hcount)).trans
      (exec_request_row (.inr rfl) hwft).symm
  | stdRspExc | stdRspRd3 | stdRspRd4 | stdRspWr1 | stdRspWrn =>
    exact exec_decoder_of_loaded (.inl ⟨rfl, rfl⟩) (.inl ⟨rfl, rfl⟩) hwft (input_of_loaded_encoding rfl hwf rfl rfl)
  | lxpRspExc | lxpRspRd3 | lxpRspRd4 | lxpRspWr1 | lxpRspWrn =>
    exact exec_decoder_of_loaded (.inr ⟨rfl, rfl⟩) (.inr ⟨rfl, rfl⟩) hwft (input_of_loaded_encoding rfl hwf rfl rfl)
  | _ => rfl

end Sys2Proof.Machine
end

section
/-! PROOFS. What every instruction leaves behind, the wire rows included: which kind of effect it has, and with it what
CERR says and which registers survive (spec 10_state.md R38, R44, R53, 60_exceptions.md R261, R306,
70_reset_and_hazards.md R355). -/

namespace Sys2Proof.Machine

/-- The instructions with an effect of a kind: each group of registers is written by the commands of its own unit, and
by the wire rows that mean the same (R40, R41, R53, R181). -/
def Effect.WrittenBy (i : Instr) : Effect → Prop
  | .status _ => True
  | .crcacc _ => i = .crcInit ∨ i = .crcByte ∨ i = .crcBuf
  | .bfq _ => i = .bfGet ∨ i = .bfSet
  | .addr _ => i = .stdAddr
  | .frame _ _ => i ∈ [.stdRd, .stdWr1, .stdWrn, .lxpRd, .lxpWr1, .lxpWrn] ∨ i.space = .stdReq ∨ i.space = .lxpReq
  | .results _ => i = .stdDec ∨ i = .lxpDec ∨ i.space = .stdRsp ∨ i.space = .lxpRsp

/-- What an instruction leaves behind is one effect of a kind it has (`exec_effect`, with the kind). -/
theorem exec_next_effect {i : Instr} {s t : State} (h : exec i s = .next t) :
    ∃ w : Effect, w.WrittenBy i ∧ t = w.apply s := by
  cases i
  case nop => exact ⟨.status .ok, trivial, complete_next h⟩
  case crcInit => exact ⟨.crcacc _, .inl rfl, complete_next h⟩
  case crcByte => exact ⟨.crcacc _, .inr (.inl rfl), complete_next h⟩
  case crcBuf => exact ⟨.crcacc _, .inr (.inr rfl), complete_next h⟩
  case bfGet =>
    rcases finishBitField_next h with ⟨v, -, rfl⟩ | ⟨-, rfl⟩
    · exact ⟨.bfq v, .inl rfl, rfl⟩
    · exact ⟨.status _, trivial, rfl⟩
  case bfSet =>
    rcases finishBitField_next h with ⟨v, -, rfl⟩ | ⟨-, rfl⟩
    · exact ⟨.bfq v, .inr rfl, rfl⟩
    · exact ⟨.status _, trivial, rfl⟩
  case stdAddr => exact ⟨.addr _, rfl, complete_next h⟩
  case stdRd | stdWr1 | lxpRd | lxpWr1 => exact ⟨.frame _ _, .inl (by simp), emitFrame_next h⟩
  case stdWrn =>
    obtain ⟨f, e, he⟩ := emitOrReject_effect s.countInRange (stdEncWriten s.addr s.start s.writeValues)
    exact ⟨.frame f e, .inl (by simp), Host.Outcome.next.inj (h.symm.trans (he s))⟩
  case lxpWrn =>
    obtain ⟨f, e, he⟩ :=
      emitOrReject_effect s.countInRange (lxpEncWriten s.addr s.headerSerials s.start s.writeValues)
    exact ⟨.frame f e, .inl (by simp), Host.Outcome.next.inj (h.symm.trans (he s))⟩
  case stdDec => exact ⟨.results _, .inl rfl, report_next h⟩
  case lxpDec => exact ⟨.results _, .inr (.inl rfl), report_next h⟩
  case stdReqRd3 | stdReqRd4 | stdReqWr1 => exact ⟨.frame _ _, .inr (.inl rfl), emitFrame_next h⟩
  case stdReqWrn => exact ⟨.frame _ _, .inr (.inl rfl), emitFrame_next (ifEncodable_next h).2⟩
  case lxpReqRd3 | lxpReqRd4 | lxpReqWr1 | lxpReqWrn =>
    exact ⟨.frame _ _, .inr (.inr rfl), emitFrame_next (ifEncodable_next h).2⟩
  case stdRspExc | stdRspRd3 | stdRspRd4 | stdRspWr1 | stdRspWrn =>
    exact ⟨.results _, .inr (.inr (.inl rfl)), report_next (ifEncodable_next h).2⟩
  case lxpRspExc | lxpRspRd3 | lxpRspRd4 | lxpRspWr1 | lxpRspWrn =>
    exact ⟨.results _, .inr (.inr (.inr rfl)), report_next (ifEncodable_next h).2⟩

/-- Settles O51: a command has an effect on every state. -/
theorem commandsNeverStop : Obligations.CommandsNeverStop := by
  unfold Obligations.CommandsNeverStop
  exact fun _ s hi => exec_answers s hi

/-- Settles O53: of the effects only those of STD.ADDR and of the CRC commands write an operand. -/
theorem operandsAreNeverWritten : Obligations.OperandsAreNeverWritten := by
  unfold Obligations.OperandsAreNeverWritten
  intro i s t h
  obtain ⟨w, hw, rfl⟩ := exec_next_effect h
  cases w with
  | addr v =>
    exact ⟨rfl, rfl, rfl, rfl, rfl, rfl, rfl, rfl, rfl, rfl, fun _ => rfl, fun _ => rfl, rfl, rfl, rfl, rfl,
      fun hne => absurd hw hne, fun _ _ _ => rfl⟩
  | crcacc v =>
    exact ⟨rfl, rfl, rfl, rfl, rfl, rfl, rfl, rfl, rfl, rfl, fun _ => rfl, fun _ => rfl, rfl, rfl, rfl, rfl,
      fun _ => rfl, fun hinit hbyte hbuf => absurd hw (by simp [Effect.WrittenBy, hinit, hbyte, hbuf])⟩
  | status | bfq | frame | results =>
    exact ⟨rfl, rfl, rfl, rfl, rfl, rfl, rfl, rfl, rfl, rfl, fun _ => rfl, fun _ => rfl, rfl, rfl, rfl, rfl,
      fun _ => rfl, fun _ _ _ => rfl⟩

/-- Settles O54: an effect of one group leaves the registers of the others alone. -/
theorem resultsOfOtherGroupsSurvive : Obligations.ResultsOfOtherGroupsSurvive := by
  unfold Obligations.ResultsOfOtherGroupsSurvive
  intro i s t h
  obtain ⟨w, hw, rfl⟩ := exec_next_effect h
  cases w with
  | bfq v =>
    exact ⟨fun hget hset => absurd hw (not_or.mpr ⟨hget, hset⟩), fun _ _ _ => ⟨rfl, fun _ => rfl⟩,
      fun _ _ _ _ => ⟨rfl, rfl, rfl, rfl, rfl, rfl, rfl, rfl, fun _ => rfl⟩⟩
  | frame f e =>
    exact ⟨fun _ _ => rfl, fun henc hstd hlxp => absurd hw (not_or.mpr ⟨henc, not_or.mpr ⟨hstd, hlxp⟩⟩),
      fun _ _ _ _ => ⟨rfl, rfl, rfl, rfl, rfl, rfl, rfl, rfl, fun _ => rfl⟩⟩
  | results d =>
    exact ⟨fun _ _ => rfl, fun _ _ _ => ⟨rfl, fun _ => rfl⟩, fun hstd hlxp hstdRsp hlxpRsp =>
      absurd hw (not_or.mpr ⟨hstd, not_or.mpr ⟨hlxp, not_or.mpr ⟨hstdRsp, hlxpRsp⟩⟩⟩)⟩
  | status | crcacc | addr =>
    exact ⟨fun _ _ => rfl, fun _ _ _ => ⟨rfl, fun _ => rfl⟩,
      fun _ _ _ _ => ⟨rfl, rfl, rfl, rfl, rfl, rfl, rfl, rfl, fun _ => rfl⟩⟩

/-- A bit-field command is OK or out of range by its operand check (R163). -/
theorem bitField_cerr {c : Instr} {s t : State} (hc : c = .bfGet ∨ c = .bfSet) (h : exec c s = .next t) :
    t.cstat = if 16 < s.bfpos.toNat % 256 + s.bfpos.toNat / 256 then 2 else 0 := by
  obtain ⟨hout, hin⟩ := bitFieldOutOfRangeIsRejected s c hc
  split_ifs with hrange
  · obtain rfl := Host.Outcome.next.inj ((hout hrange).symm.trans h)
    rfl
  · obtain ⟨q, hq⟩ := hin (Nat.le_of_not_lt hrange)
    obtain rfl := Host.Outcome.next.inj (hq.symm.trans h)
    rfl

/-- A write-multiple command is OK or out of range by its operand check (R187, R227). -/
theorem writeMany_cerr {c : Instr} {s t : State} (hc : c = .stdWrn ∨ c = .lxpWrn) (h : exec c s = .next t) :
    t.cstat = if 127 < s.count.toNat then 2 else 0 := by
  split_ifs with hcount
  · have hreject : exec c s = rejectFrame s := by
      rcases hc with rfl | rfl
      · exact exec_stdWrn_of_lt hcount
      · exact exec_lxpWrn_of_lt hcount
    rw [rejectFrame_next (hreject.symm.trans h)]
    rfl
  · have hemit : ∃ f, exec c s = emitFrame f s := by
      rcases hc with rfl | rfl
      · exact ⟨_, exec_stdWrn_of_le (Nat.le_of_not_lt hcount)⟩
      · exact ⟨_, exec_lxpWrn_of_le (Nat.le_of_not_lt hcount)⟩
    obtain ⟨f, hf⟩ := hemit
    rw [emitFrame_next (hf.symm.trans h)]
    rfl

/-- Settles O52: a command without an operand check ends with CERR 0, and the operand checks are the two causes. -/
theorem cerrDescribesTheCommand : Obligations.CerrDescribesTheCommand := by
  unfold Obligations.CerrDescribesTheCommand
  intro i s t hi h
  cases i
  case bfGet | bfSet =>
    have hcerr := bitField_cerr (by simp) h
    simp [hcerr]
  case stdWrn | lxpWrn =>
    have hcerr := writeMany_cerr (by simp) h
    simp [hcerr]
  case nop | crcInit | crcByte | crcBuf | stdAddr => simp [complete_next h, cerrCode]
  case stdRd | stdWr1 | lxpRd | lxpWr1 => simp [emitFrame_next h, cerrCode]
  case stdDec | lxpDec => simp [report_next h, cerrCode]
  all_goals cases hi

end Sys2Proof.Machine
end

section
/-! PROOFS. The host port: where each register and element is, what a read returns and what a write stores (spec
10_state.md R42, R55, R56, 20_memory.md R79 to R81). -/

namespace Sys2Proof.Machine

/-! ### The register map and its inverse -/

/-- The offset of the first byte of a register or element (R55). -/
def Loc.offset : Loc → Nat
  | .cmd => 0x000
  | .cstat => 0x004
  | .crcacc => 0x008
  | .crcin => 0x00C
  | .bfr => 0x010
  | .bfpos => 0x014
  | .bfv => 0x018
  | .bfq => 0x01C
  | .addr => 0x020
  | .fsel => 0x024
  | .start => 0x028
  | .count => 0x02C
  | .ilen => 0x030
  | .olen => 0x034
  | .rstat => 0x038
  | .rstart => 0x03C
  | .rcount => 0x040
  | .nval => 0x044
  | .rlen => 0x048
  | .bser i => 0x050 + i
  | .dser i => 0x060 + i
  | .rbser i => 0x070 + i
  | .rdser i => 0x080 + i
  | .serout i => 0x090 + i
  | .wval i => 0x100 + 2 * i
  | .rval i => 0x200 + 2 * i
  | .ibuf i => 0x400 + i
  | .obuf i => 0x600 + i

/-- The map has the register, or the element's index is one of the array's (R55). -/
def Loc.InMap : Loc → Prop
  | .bser i | .dser i | .rbser i | .rdser i | .serout i => i < 10
  | .wval i | .rval i => i < 127
  | .ibuf i | .obuf i => i < 512
  | _ => True

/-- The element whose first byte is at an offset (R55, R79). -/
theorem elementAt_eq_some_iff {base size n off i : Nat} (hsize : 0 < size) :
    elementAt base size n off = some i ↔ i < n ∧ off = base + size * i := by
  unfold elementAt
  constructor
  · intro h
    split_ifs at h with hin
    obtain ⟨hbase, hlt, hmod⟩ := hin
    obtain rfl := Option.some.inj h
    have hdiv := Nat.div_add_mod (off - base) size
    exact ⟨Nat.div_lt_of_lt_mul (by omega), by omega⟩
  · rintro ⟨hi, rfl⟩
    have hlt : size * i < size * n := Nat.mul_lt_mul_of_pos_left hi hsize
    rw [Nat.add_sub_cancel_left, Nat.mul_mod_right, Nat.mul_div_cancel_left _ hsize, if_pos (by omega)]

/-- Past the scalars the map holds the array elements (R55). -/
theorem locate_of_lt {off : Nat} (h : 0x048 < off) : locate off = elementLoc off := by
  unfold locate
  split <;> first | rfl | omega

theorem elementAt_byte (base : Nat) {n i : Nat} (h : i < n) : elementAt base 1 n (base + i) = some i :=
  (elementAt_eq_some_iff Nat.one_pos).mpr ⟨h, by rw [Nat.one_mul]⟩

theorem elementAt_word (base : Nat) {n i : Nat} (h : i < n) : elementAt base 2 n (base + 2 * i) = some i :=
  (elementAt_eq_some_iff Nat.two_pos).mpr ⟨h, rfl⟩

/-- Each register and element is found at its offset (R55). -/
theorem locate_offset {loc : Loc} (h : loc.InMap) : locate loc.offset = some loc := by
  cases loc
  case bser i | dser i | rbser i | rdser i | serout i | wval i | rval i | ibuf i | obuf i =>
    have hi : i < _ := h
    simp (disch := omega) only [Loc.offset, locate_of_lt, elementLoc, if_pos, if_neg, Config.nvalMax, Config.bufSize,
      elementAt_byte, elementAt_word, Option.map_some]
  all_goals rfl

/-- What the map holds somewhere is a register or an element of an array (R55). -/
theorem inMap_of_locate {off : Nat} {loc : Loc} (h : locate off = some loc) : loc.InMap := by
  have helement (base size n : Nat) (mk : Nat → Loc) (hsize : 0 < size)
      (hloc : (elementAt base size n off).map mk = some loc) : ∃ i, i < n ∧ loc = mk i := by
    obtain ⟨i, hi, rfl⟩ := Option.map_eq_some_iff.mp hloc
    exact ⟨i, ((elementAt_eq_some_iff hsize).mp hi).1, rfl⟩
  unfold locate at h
  split at h
  case h_20 =>
    unfold elementLoc at h
    split_ifs at h
    all_goals
      obtain ⟨i, hi, rfl⟩ := helement _ _ _ _ (by decide) h
      exact hi
  all_goals
    obtain rfl := Option.some.inj h
    trivial

/-- Everything the map holds is inside the block (R55). -/
theorem lt_blockSize_of_locate {off : Nat} {loc : Loc} (h : locate off = some loc) : off < blockSize := by
  have hsome := (locate_isSome_iff off).mp (h ▸ rfl)
  rw [elementLoc_isSome_iff] at hsome
  rw [blockSize] at *
  omega

/-! ### The step on a read and on a write -/

theorem withLoc_of_locate {off : Nat} {loc : Loc} (h : locate off = some loc) (k : Loc → Result) :
    withLoc off k = k loc := by
  rw [withLoc, if_neg (lt_blockSize_of_locate h).not_ge, h]

section Access

variable {s : State} {rest : List HostEvent} {off v : Nat} {loc : Loc}

/-- A read of what the map holds at the offset returns it and changes nothing (R81). -/
theorem step_read (hp : s.pending = .read off :: rest) (h : locate off = some loc) :
    step s = .next { s with
      pending := rest, reply := some (hostRead (s.arrive rest) loc), draws := s.draws + 1 } := by
  rw [step_of_pending hp, access, withLoc_of_locate h]
  rfl

/-- A write to anything but CMD stores there (R56). -/
theorem step_write (hp : s.pending = .write off v :: rest) (h : locate off = some loc) (hcmd : loc ≠ .cmd) :
    step s = .next (hostStore (s.arrive rest) v loc) := by
  rw [step_of_pending hp, access, withLoc_of_locate h]
  cases loc with
  | cmd => exact absurd rfl hcmd
  | _ => rfl

end Access

/-! ### Elements -/

theorem byteCell_of_readCell {k i : Nat} {c : Memory} {v : Byte} (h : readCell c i = some v) : byteCell k c i = v := by
  rw [byteCell, h, Option.getD_some]

theorem u16Cell_of_readCell {k i : Nat} {c : Cells 16} {v : U16} (h : readCell c i = some v) : u16Cell k c i = v := by
  rw [u16Cell, h, Option.getD_some]

theorem serialGet_of_getElem? {x : Serial} {i : Nat} {b : Byte} (h : (serialBytes x)[i]? = some b) :
    serialGet x i = b := by
  rw [serialGet, byteAt, List.getD_eq_getElem?_getD, h, Option.getD_some]

/-- A write of one byte of a serial register (R55). -/
theorem serialBytes_serialSet (x : Serial) (i : Nat) (v : Byte) :
    serialBytes (serialSet x i v) = (serialBytes x).set i v :=
  serialBytes_serialOf (by rw [List.length_set, serialBytes_length])

/-- ILEN clamps what is written to it (R42). -/
theorem ofNat_min_bufSize (v : Nat) :
    BitVec.ofNat 16 (min v Config.bufSize) = if v ≤ 512 then BitVec.ofNat 16 v else 512 := by
  split_ifs with h
  · rw [Config.bufSize, Nat.min_eq_left h]
  · rw [Config.bufSize, Nat.min_eq_right (Nat.le_of_not_le h)]
    rfl

/-! ### The obligations -/

/-- Settles O6. -/
theorem idleBlockWaits : Obligations.IdleBlockWaits := by
  unfold Obligations.IdleBlockWaits
  intro s hp
  simp only [step, hp]

/-- Settles O8: each offset of the list is that of a scalar, whose value the read returns. -/
theorem hostReadReturnsTheScalar : Obligations.HostReadReturnsTheScalar := by
  unfold Obligations.HostReadReturnsTheScalar
  intro s rest off v hp hmem
  obtain ⟨loc, hloc, rfl⟩ : ∃ loc, locate off = some loc ∧ hostRead (s.arrive rest) loc = v := by
    simp only [List.mem_cons, Prod.mk.injEq, List.not_mem_nil, or_false] at hmem
    rcases hmem with ⟨rfl, rfl⟩ | ⟨rfl, rfl⟩ | ⟨rfl, rfl⟩ | ⟨rfl, rfl⟩ | ⟨rfl, rfl⟩ | ⟨rfl, rfl⟩ | ⟨rfl, rfl⟩ |
      ⟨rfl, rfl⟩ | ⟨rfl, rfl⟩ | ⟨rfl, rfl⟩ | ⟨rfl, rfl⟩ | ⟨rfl, rfl⟩ | ⟨rfl, rfl⟩ | ⟨rfl, rfl⟩ | ⟨rfl, rfl⟩ |
      ⟨rfl, rfl⟩ | ⟨rfl, rfl⟩ | ⟨rfl, rfl⟩ | ⟨rfl, rfl⟩
    all_goals exact ⟨_, rfl, rfl⟩
  exact step_read hp hloc

/-- Settles O9: the read returns what the element yields, which is the value it holds if it holds one. -/
theorem hostReadReturnsTheElement : Obligations.HostReadReturnsTheElement := by
  unfold Obligations.HostReadReturnsTheElement
  intro s rest i
  refine ⟨fun base c hmem hi hp => ?_, fun base c hmem hi hp => ?_, fun base ser b hmem hi hb hp => ?_⟩
  · simp only [List.mem_cons, Prod.mk.injEq, List.not_mem_nil, or_false] at hmem
    rcases hmem with ⟨rfl, rfl⟩ | ⟨rfl, rfl⟩
    · exact ⟨_, fun v hv => byteCell_of_readCell hv, step_read hp (locate_offset (loc := .ibuf i) hi)⟩
    · exact ⟨_, fun v hv => byteCell_of_readCell hv, step_read hp (locate_offset (loc := .obuf i) hi)⟩
  · simp only [List.mem_cons, Prod.mk.injEq, List.not_mem_nil, or_false] at hmem
    rcases hmem with ⟨rfl, rfl⟩ | ⟨rfl, rfl⟩
    · exact ⟨_, fun v hv => u16Cell_of_readCell hv, step_read hp (locate_offset (loc := .wval i) hi)⟩
    · exact ⟨_, fun v hv => u16Cell_of_readCell hv, step_read hp (locate_offset (loc := .rval i) hi)⟩
  · simp only [List.mem_cons, Prod.mk.injEq, List.not_mem_nil, or_false] at hmem
    rw [← serialGet_of_getElem? hb]
    rcases hmem with ⟨rfl, rfl⟩ | ⟨rfl, rfl⟩ | ⟨rfl, rfl⟩ | ⟨rfl, rfl⟩ | ⟨rfl, rfl⟩
    · exact step_read hp (locate_offset (loc := .bser i) hi)
    · exact step_read hp (locate_offset (loc := .dser i) hi)
    · exact step_read hp (locate_offset (loc := .rbser i) hi)
    · exact step_read hp (locate_offset (loc := .rdser i) hi)
    · exact step_read hp (locate_offset (loc := .serout i) hi)

/-- Settles O10: the write stores at the register's offset, and ILEN's store is the clamp. -/
theorem hostWriteStoresTheScalar : Obligations.HostWriteStoresTheScalar := by
  unfold Obligations.HostWriteStoresTheScalar
  rintro s t rest v off hp rfl
  have hstore (loc : Loc) (hloc : locate off = some loc) (hcmd : loc ≠ .cmd) :
      step s = .next (hostStore (s.arrive rest) v loc) := step_write hp hloc hcmd
  refine ⟨?_, ?_, ?_, ?_, ?_, ?_, ?_, ?_, ?_, ?_⟩ <;> rintro rfl
  · exact hstore .crcacc rfl (by simp)
  · exact hstore .crcin rfl (by simp)
  · exact hstore .bfr rfl (by simp)
  · exact hstore .bfpos rfl (by simp)
  · exact hstore .bfv rfl (by simp)
  · exact hstore .addr rfl (by simp)
  · exact hstore .fsel rfl (by simp)
  · exact hstore .start rfl (by simp)
  · exact hstore .count rfl (by simp)
  · rw [← ofNat_min_bufSize]
    exact hstore .ilen rfl (by simp)

/-- Settles O11: the write stores at the element's offset, and a store there is read back there alone. -/
theorem hostWriteStoresTheElement : Obligations.HostWriteStoresTheElement := by
  unfold Obligations.HostWriteStoresTheElement
  rintro s t rest v i rfl
  refine ⟨fun hp hi => ?_, fun hp hi => ?_, fun hp hi => ?_, fun hp hi => ?_⟩
  · exact ⟨_, step_write hp (locate_offset (loc := .ibuf i) hi) (by simp), readCell_writeCell_same ..,
      fun j hj => readCell_writeCell_other _ _ hj⟩
  · exact ⟨_, step_write hp (locate_offset (loc := .wval i) hi) (by simp), readCell_writeCell_same ..,
      fun j hj => readCell_writeCell_other _ _ hj⟩
  · exact ⟨_, step_write hp (locate_offset (loc := .bser i) hi) (by simp), serialBytes_serialSet ..⟩
  · exact ⟨_, step_write hp (locate_offset (loc := .dser i) hi) (by simp), serialBytes_serialSet ..⟩

/-- The registers and arrays a host write does not change (R56). -/
def Loc.ReadOnly : Loc → Prop
  | .cstat | .bfq | .olen | .rstat | .rstart | .rcount | .nval | .rlen => True
  | .rbser _ | .rdser _ | .serout _ | .rval _ | .obuf _ => True
  | _ => False

theorem step_write_readOnly {s : State} {rest : List HostEvent} {v : Nat} {loc : Loc}
    (hp : s.pending = .write loc.offset v :: rest) (hmap : loc.InMap) (hro : loc.ReadOnly) :
    step s = .next (s.arrive rest) := by
  have hcmd : loc ≠ .cmd := by rintro rfl; exact hro
  rw [step_write hp (locate_offset hmap) hcmd]
  cases loc <;> first | rfl | exact hro.elim

/-- Settles O12: each listed offset is that of a read-only register or element. -/
theorem hostWriteToReadOnlyIsIgnored : Obligations.HostWriteToReadOnlyIsIgnored := by
  unfold Obligations.HostWriteToReadOnlyIsIgnored
  intro s rest v off hp hoff
  obtain ⟨loc, hmap, hro, rfl⟩ : ∃ loc : Loc, loc.InMap ∧ loc.ReadOnly ∧ off = loc.offset := by
    rcases hoff with hscalar | ⟨hlo, hhi⟩ | ⟨hlo, hhi⟩ | ⟨hlo, hhi⟩ | ⟨hlo, hhi, heven⟩ | ⟨hlo, hhi⟩
    · simp only [List.mem_cons, List.not_mem_nil, or_false] at hscalar
      rcases hscalar with rfl | rfl | rfl | rfl | rfl | rfl | rfl | rfl
      · exact ⟨.cstat, trivial, trivial, rfl⟩
      · exact ⟨.bfq, trivial, trivial, rfl⟩
      · exact ⟨.olen, trivial, trivial, rfl⟩
      · exact ⟨.rstat, trivial, trivial, rfl⟩
      · exact ⟨.rstart, trivial, trivial, rfl⟩
      · exact ⟨.rcount, trivial, trivial, rfl⟩
      · exact ⟨.nval, trivial, trivial, rfl⟩
      · exact ⟨.rlen, trivial, trivial, rfl⟩
    · exact ⟨.rbser (off - 0x070), by simp only [Loc.InMap]; omega, trivial, by simp only [Loc.offset]; omega⟩
    · exact ⟨.rdser (off - 0x080), by simp only [Loc.InMap]; omega, trivial, by simp only [Loc.offset]; omega⟩
    · exact ⟨.serout (off - 0x090), by simp only [Loc.InMap]; omega, trivial, by simp only [Loc.offset]; omega⟩
    · exact ⟨.rval ((off - 0x200) / 2), by simp only [Loc.InMap]; omega, trivial, by simp only [Loc.offset]; omega⟩
    · exact ⟨.obuf (off - 0x600), by simp only [Loc.InMap]; omega, trivial, by simp only [Loc.offset]; omega⟩
  exact step_write_readOnly hp hmap hro

/-! ### What no step changes, and programs that never stop -/

/-- A store writes a register of the block, never the strap or what the host has yet to do. -/
theorem hostStore_keeps (s : State) (v : Nat) (loc : Loc) :
    (hostStore s v loc).serialMode = s.serialMode ∧ (hostStore s v loc).pending = s.pending := by
  cases loc <;> exact ⟨rfl, rfl⟩

theorem runCommand_keeps {v : Nat} {s t : State} (h : runCommand v s = .next t) :
    t.serialMode = s.serialMode ∧ t.pending = s.pending := by
  rcases runCommand_cases v s with ⟨i, -, hrun⟩ | ⟨e, -, hrun⟩
  · obtain ⟨-, -, -, -, -, -, -, -, -, -, -, -, hmode, hpending, -⟩ := operandsAreNeverWritten i s t (hrun.symm.trans h)
    exact ⟨hmode, hpending⟩
  · obtain rfl := Host.Outcome.next.inj (hrun.symm.trans h)
    exact ⟨rfl, rfl⟩

/-- A step keeps the strap and consumes at most the one access (R12, R82). -/
theorem step_keeps {s t : State} (h : step s = .next t) :
    t.serialMode = s.serialMode ∧ t.pending = s.pending.tail := by
  rcases step_cases h with ⟨hp, rfl⟩ | ⟨rest, hp, rfl⟩ | ⟨off, loc, rest, hp, -, rfl⟩ |
    ⟨off, v, loc, rest, hp, -, -, rfl⟩ | ⟨off, v, rest, hp, -, hrun⟩
  · exact ⟨rfl, by rw [hp]; rfl⟩
  · exact ⟨rfl, by rw [hp]; rfl⟩
  · exact ⟨rfl, by rw [hp]; rfl⟩
  · rw [hp]
    exact hostStore_keeps (s.arrive rest) v loc
  · rw [hp]
    exact runCommand_keeps hrun

/-- Settles O60. -/
theorem configurationNeverChanges : Obligations.ConfigurationNeverChanges := by
  unfold Obligations.ConfigurationNeverChanges
  exact fun _ _ h => (step_keeps h).1

/-- An access that reaches something is answered (R79, R81, R261). -/
theorem access_answers {e : HostEvent} (s : State) (he : reaches e = true) : ∃ t, access e s = .next t := by
  cases e with
  | read off =>
    obtain ⟨loc, hloc⟩ := Option.isSome_iff_exists.mp he
    exact ⟨_, withLoc_of_locate hloc _⟩
  | write off v =>
    obtain ⟨loc, hloc⟩ := Option.isSome_iff_exists.mp he
    obtain ⟨t, ht⟩ := writeLoc_answers v s loc
    exact ⟨t, (withLoc_of_locate hloc _).trans ht⟩
  | reset => exact ⟨_, rfl⟩

/-- Settles O59: the next access reaches something, so the step answers, and what is then pending was pending. -/
theorem safeProgramsNeverStop : Obligations.SafeProgramsNeverStop := by
  unfold Obligations.SafeProgramsNeverStop
  intro s hsafe
  obtain ⟨t, ht⟩ : ∃ t, step s = .next t := by
    cases hp : s.pending with
    | nil => exact ⟨s, idleBlockWaits s hp⟩
    | cons e rest =>
      rw [step_of_pending hp]
      exact access_answers _ (hsafe e (by simp [hp]))
  refine ⟨t, ht, fun e he => hsafe e ?_⟩
  rw [(step_keeps ht).2] at he
  exact List.mem_of_mem_tail he

end Sys2Proof.Machine
end

section
/-! PROOFS. The invariant of the block: what each effect, store and reset leaves of it (spec 10_state.md R42 to R50,
44_classifier.md R264 to R266, 93_implementation_defined.md U8). -/

namespace Sys2Proof.Machine

/-! ### The records a decoder makes -/

/-- A record whose results may be latched: no more values than RVAL has, no payload unless Success, a code only for
Exception, a declared length only for a read response, and a serial only of ten bytes (R46, R48, R266). -/
structure Decoded.Legal (d : Decoded) : Prop where
  values_fit : d.values.length ≤ 127
  no_payload : diagKind d.diag ≠ .success → d.values = [] ∧ d.rstart = 0 ∧ d.rcount = 0 ∧ d.serValid = false
  exc_only : diagKind d.diag ≠ .exception → d.exc = 0
  rlen_read : d.rlen ≠ 0 → d.func = 3 ∨ d.func = 4
  serial_length : d.serValid = true → d.rlen = 10
  serial_clear : d.serValid = false → d.serout = zeroSerial

/-- A record with nothing but a diagnosis is legal. -/
theorem diag_legal (d : Diag) : ({ diag := d } : Decoded).Legal where
  values_fit := Nat.zero_le _
  no_payload _ := ⟨rfl, rfl, rfl, rfl⟩
  exc_only _ := rfl
  rlen_read h := absurd rfl h
  serial_length h := by cases h
  serial_clear _ := rfl

/-- A record with nothing but a diagnosis and a header is legal. -/
theorem headerOf_legal (fr : Framing) (buf : List Byte) (d : Diag) : (headerOf fr buf d).Legal where
  values_fit := Nat.zero_le _
  no_payload _ := ⟨rfl, rfl, rfl, rfl⟩
  exc_only _ := rfl
  rlen_read h := absurd rfl h
  serial_length h := by cases h
  serial_clear _ := rfl

/-- The function code of a record is the byte's low seven bits (R191, R229). -/
theorem headerOf_func_eq {fr : Framing} {buf : List Byte} {d : Diag} {f : BitVec 7}
    (h : (byteAt buf 1).toNat % 128 = f.toNat) : (headerOf fr buf d).func = f :=
  BitVec.eq_of_toNat_eq ((func_toNat _).trans h)

theorem decodeRead_legal {fr : Framing} {buf : List Byte}
    (hf : (byteAt buf 1).toNat % 128 = 3 ∨ (byteAt buf 1).toNat % 128 = 4) : (decodeRead fr buf).Legal := by
  have hfunc (d : Diag) : (headerOf fr buf d).func = 3 ∨ (headerOf fr buf d).func = 4 :=
    hf.imp headerOf_func_eq headerOf_func_eq
  rcases decodeRead_cases fr buf with ⟨-, e⟩ | ⟨hfits, -⟩
  · rw [e]
    exact { headerOf_legal fr buf .lengthExceedsBuffer with
      rlen_read := fun _ => hfunc .lengthExceedsBuffer
      serial_length := fun h => by cases h }
  · rw [decodeRead_eq_of_fits hfits]
    exact {
      values_fit := by
        have := (byteAt buf (headerLength fr)).isLt
        rw [List.length_map, List.length_range]
        omega
      no_payload := fun h => absurd rfl h
      exc_only := fun _ => rfl
      rlen_read := fun _ => hfunc .none
      serial_length := fun h => BitVec.eq_of_toNat_eq (length_of_reportsSerial h)
      serial_clear := fun h => if_neg (ne_true_of_eq_false h) }

theorem decodeEcho_legal (fr : Framing) (buf : List Byte) : (decodeEcho fr buf).Legal := by
  rcases decodeEcho_cases fr buf with ⟨-, e⟩ | ⟨-, e⟩ <;> rw [e]
  · exact headerOf_legal fr buf _
  · exact { headerOf_legal fr buf .none with no_payload := fun h => absurd rfl h }

/-- Every record a decoder makes is legal, whatever the buffer (R266). -/
theorem decodeResponse_legal (fr : Framing) (buf : List Byte) : (decodeResponse fr buf).Legal := by
  rcases decodeResponse_cases fr buf with ⟨-, e⟩ | ⟨-, -, e⟩ | ⟨-, -, -, e⟩ | ⟨-, -, -, hf, e⟩ | ⟨-, -, -, -, e⟩ |
    ⟨-, -, -, -, -, -, -, e⟩ <;> rw [e]
  · exact diag_legal .tooShort
  · exact headerOf_legal fr buf _
  · exact { headerOf_legal fr buf .exceptionResponse with exc_only := fun h => absurd rfl h }
  · exact decodeRead_legal hf
  · exact decodeEcho_legal fr buf
  · exact headerOf_legal fr buf _

/-! ### The invariant under each effect -/

section Effects

variable {s : State}

theorem cerrCode_le (e : CErr) : (cerrCode e).toNat ≤ 2 := by cases e <;> decide

theorem Inv.setCerr (h : Inv s) (e : CErr) : Inv (s.setCerr e) := { h with cstat_legal := cerrCode_le e }

theorem Inv.setCrcacc (h : Inv s) (v : U16) : Inv (s.setCrcacc v) := { h with }

theorem Inv.setBfq (h : Inv s) (v : U16) : Inv (s.setBfq v) := { h with }

theorem Inv.setAddr (h : Inv s) (v : Byte) : Inv (s.setAddr v) := { h with }

/-- A frame that fits OBUF keeps the invariant (R50). -/
theorem Inv.putFrame (h : Inv s) {f : List Byte} (hf : f.length ≤ 512) : Inv (s.putFrame f) := by
  have holen : (s.putFrame f).olen.toNat = f.length := by
    rw [State.putFrame_olen, BitVec.toNat_ofNat, Nat.mod_eq_of_lt (by omega)]
  exact { h with
    olen_fits := holen.trans_le hf
    obuf_valid := by rw [holen, State.putFrame_obuf, cellsOf_indices]
    obuf_wf := Memory.wf_cellsOf hf }

/-- Legal results keep the invariant (R46, R49, R264 to R266). -/
theorem Inv.latch (h : Inv s) {d : Decoded} (hd : d.Legal) : Inv (s.latch d) := by
  have hnval : (s.latch d).nval.toNat = d.values.length := by
    have := hd.values_fit
    rw [State.latch_nval, BitVec.toNat_ofNat, Nat.mod_eq_of_lt (by omega)]
  have hkind {k : Kind} (hne : rstatKind (s.latch d).rstat ≠ kindCode k) : diagKind d.diag ≠ k := by
    rw [State.latch_rstat, rstatKind_packRstat] at hne
    exact fun he => hne (congrArg kindCode he)
  exact { h with
    nval_fits := hnval.trans_le hd.values_fit
    rval_valid := by rw [hnval, State.latch_rval, cellsOf_indices]
    rval_wf := cellsWf_cellsOf hd.values_fit
    status_legal := ⟨d.diag, rstatDiag_packRstat .., rstatKind_packRstat .., rstatNeedMore_packRstat ..⟩
    no_payload := fun hne => by
      obtain ⟨hvalues, hstart, hcount, hvalid⟩ := hd.no_payload (hkind hne)
      exact ⟨by rw [State.latch_nval, hvalues]; rfl, hstart, hcount, (rstatSerValid_packRstat ..).trans hvalid⟩
    exc_only := fun hne => (rstatExc_packRstat ..).trans (hd.exc_only (hkind hne))
    rlen_read := fun hne => by
      rw [State.latch_rstat, rstatFunc_packRstat]
      exact hd.rlen_read hne
    serial_length := fun hv => hd.serial_length ((rstatSerValid_packRstat ..).symm.trans hv)
    serial_clear := fun hv => hd.serial_clear ((rstatSerValid_packRstat ..).symm.trans hv) }

/-- A command keeps the invariant: its frame fits OBUF, its results are legal. -/
theorem Inv.of_exec {t : State} {i : Instr} (h : Inv s) (hi : i.space = .cmd) (hexec : exec i s = .next t) : Inv t := by
  obtain ⟨w, hw, rfl⟩ := exec_next_effect hexec
  cases w with
  | status e => exact h.setCerr e
  | crcacc v => exact (h.setCrcacc v).setCerr .ok
  | bfq v => exact (h.setBfq v).setCerr .ok
  | addr v => exact (h.setAddr v).setCerr .ok
  | frame f e =>
    have hencoder : i ∈ [.stdRd, .stdWr1, .stdWrn, .lxpRd, .lxpWr1, .lxpWrn] := by
      rcases hw with hw | hw | hw
      · exact hw
      · cases hi.symm.trans hw
      · cases hi.symm.trans hw
    rcases exec_encoder_cases s hencoder with ⟨b, hlen, he⟩ | he
    · rw [emitFrame_next (he.symm.trans hexec)]
      exact (h.putFrame hlen).setCerr .ok
    · rw [rejectFrame_next (he.symm.trans hexec)]
      exact (h.putFrame (Nat.zero_le _)).setCerr .operandRange
  | results d =>
    obtain ⟨fr, hdec⟩ : ∃ fr, exec i s = report (decodeResponse fr s.input) s := by
      rcases hw with rfl | rfl | hw | hw
      · exact ⟨_, exec_decoder (.inl ⟨rfl, rfl⟩)⟩
      · exact ⟨_, exec_decoder (.inr ⟨rfl, rfl⟩)⟩
      · cases hi.symm.trans hw
      · cases hi.symm.trans hw
    rw [report_next (hdec.symm.trans hexec)]
    exact (h.latch (decodeResponse_legal fr s.input)).setCerr .ok

end Effects

/-! ### The invariant under a step -/

theorem Inv.arrive {s : State} (h : Inv s) (rest : List HostEvent) : Inv (s.arrive rest) := { h with }

theorem Inv.answer {s : State} (h : Inv s) (v : U32) : Inv (s.answer v) := { h with }

/-- A store keeps the invariant: ILEN is clamped, and elements of IBUF and WVAL have indices of the map (R42, R55). -/
theorem Inv.hostStore {s : State} (h : Inv s) (v : Nat) {loc : Loc} (hmap : loc.InMap) : Inv (hostStore s v loc) := by
  cases loc with
  | ilen =>
    refine { h with ilen_fits := ?_ }
    show (BitVec.ofNat 16 (min v 512)).toNat ≤ 512
    rw [BitVec.toNat_ofNat]
    omega
  | wval i => exact { h with wval_wf := cellsWf_writeCell _ h.wval_wf hmap }
  | ibuf i => exact { h with ibuf_wf := Memory.wf_writeCell _ h.ibuf_wf hmap }
  | _ => exact { h with }

/-- Settles O57: at reset the arrays are empty, the lengths 0, and RSTAT is that of TooShort. -/
theorem resetSatisfiesTheInvariant : Obligations.ResetSatisfiesTheInvariant := by
  unfold Obligations.ResetSatisfiesTheInvariant
  exact {
    cstat_legal := by decide
    ilen_fits := by decide
    olen_fits := by decide
    obuf_valid := rfl
    nval_fits := by decide
    rval_valid := rfl
    ibuf_wf := rfl
    obuf_wf := rfl
    wval_wf := rfl
    rval_wf := rfl
    status_legal := ⟨.tooShort, by decide, by decide, by decide⟩
    no_payload := fun _ => ⟨rfl, rfl, rfl, by decide⟩
    exc_only := fun _ => by decide
    rlen_read := fun h => absurd rfl h
    serial_length := fun h => absurd h (by decide)
    serial_clear := fun _ => rfl }

/-- The reset input keeps the strap and the model's own fields, which the invariant does not speak of. -/
theorem onReset_inv (s : State) : Inv s.onReset := { resetSatisfiesTheInvariant with }

theorem Inv.of_runCommand {s t : State} {v : Nat} (h : Inv s) (hrun : runCommand v s = .next t) : Inv t := by
  rcases runCommand_cases v s with ⟨i, hi, he⟩ | ⟨e, -, he⟩
  · exact h.of_exec (commandOf_space hi) (he.symm.trans hrun)
  · obtain rfl := Host.Outcome.next.inj (he.symm.trans hrun)
    exact h.setCerr .illegalCommand

/-- Settles O58, by what a step can do. -/
theorem everyStepKeepsTheInvariant : Obligations.EveryStepKeepsTheInvariant := by
  unfold Obligations.EveryStepKeepsTheInvariant
  intro s t h hstep
  rcases step_cases hstep with ⟨-, rfl⟩ | ⟨rest, -, rfl⟩ | ⟨off, loc, rest, -, -, rfl⟩ |
    ⟨off, v, loc, rest, -, hloc, -, rfl⟩ | ⟨off, v, rest, -, -, hrun⟩
  · exact h
  · exact onReset_inv _
  · exact (h.arrive rest).answer _
  · exact (h.arrive rest).hostStore v (inMap_of_locate hloc)
  · exact (h.arrive rest).of_runCommand hrun

end Sys2Proof.Machine
end

section
/-! PROOFS. The decode results register by register: header, serials, values, echo fields and the abstract decoded
response (spec 42_std_codec.md R189 to R198, 43_lxp_codec.md R228 to R237, 44_classifier.md R266, 10_state.md R57). -/

namespace Sys2Proof.Machine

/-! ### What the records of the decision table say -/

/-- A buffer of at least the minimum length has its header reported, whatever the kind (R191, R229). -/
theorem decodeResponse_header {fr : Framing} {buf : List Byte} (hl : headerLength fr + 3 ≤ buf.length) :
    (decodeResponse fr buf).addr = byteAt buf 0 ∧ (decodeResponse fr buf).func = (byteAt buf 1).extractLsb' 0 7 ∧
      (decodeResponse fr buf).excf = (byteAt buf 1).getLsbD 7 ∧
      (decodeResponse fr buf).rbser = (headerReport fr buf).1 ∧
      (decodeResponse fr buf).rdser = (headerReport fr buf).2 := by
  rcases decodeResponse_cases fr buf with ⟨hshort, -⟩ | ⟨-, -, e⟩ | ⟨-, -, -, e⟩ | ⟨-, -, -, -, e⟩ | ⟨-, -, -, -, e⟩ |
    ⟨-, -, -, -, -, -, -, e⟩
  case inl => exact absurd hl hshort.not_ge
  case inr.inl | inr.inr.inl | inr.inr.inr.inr.inr =>
    rw [e]
    exact ⟨rfl, rfl, rfl, rfl, rfl⟩
  case inr.inr.inr.inl =>
    rw [e]
    rcases decodeRead_cases fr buf with ⟨-, e⟩ | ⟨hfits, -⟩
    · rw [e]
      exact ⟨rfl, rfl, rfl, rfl, rfl⟩
    · rw [decodeRead_eq_of_fits hfits]
      exact ⟨rfl, rfl, rfl, rfl, rfl⟩
  case inr.inr.inr.inr.inl =>
    rw [e]
    rcases decodeEcho_cases fr buf with ⟨-, e⟩ | ⟨-, e⟩ <;> rw [e] <;> exact ⟨rfl, rfl, rfl, rfl, rfl⟩

/-- Only a read response or a write echo is Success, and each has its function codes (R263, R264). -/
theorem decodeResponse_success {fr : Framing} {buf : List Byte} (h : diagKind (decodeResponse fr buf).diag = .success) :
    (((decodeResponse fr buf).func = 3 ∨ (decodeResponse fr buf).func = 4) ∧
      headerLength fr + 1 + (byteAt buf (headerLength fr)).toNat + 2 ≤ buf.length ∧
      decodeResponse fr buf = decodeRead fr buf) ∨
    (((decodeResponse fr buf).func = 6 ∨ (decodeResponse fr buf).func = 16) ∧ headerLength fr + 6 ≤ buf.length ∧
      decodeResponse fr buf = decodeEcho fr buf) := by
  have hfunc {f : BitVec 7} (hl : headerLength fr + 3 ≤ buf.length) (hf : (byteAt buf 1).toNat % 128 = f.toNat) :
      (decodeResponse fr buf).func = f := by
    obtain ⟨-, hcode, -⟩ := decodeResponse_header hl
    rw [hcode]
    exact BitVec.eq_of_toNat_eq ((func_toNat _).trans hf)
  rcases decodeResponse_cases fr buf with ⟨-, e⟩ | ⟨-, -, e⟩ | ⟨-, -, -, e⟩ | ⟨hl, -, -, hf, e⟩ | ⟨hl, -, -, hf, e⟩ |
    ⟨-, -, -, -, -, -, -, e⟩
  case inr.inr.inr.inl =>
    rcases decodeRead_cases fr buf with ⟨hshort, -⟩ | ⟨hfits, -⟩
    · rw [e, decodeRead_diag_of_short hshort] at h
      cases h
    · exact .inl ⟨hf.imp (hfunc hl) (hfunc hl), hfits, e⟩
  case inr.inr.inr.inr.inl =>
    rcases decodeEcho_cases fr buf with ⟨-, hshort⟩ | ⟨hfits, -⟩
    · rw [e, hshort] at h
      cases h
    · exact .inr ⟨hf.imp (hfunc hl) (hfunc hl), hfits, e⟩
  all_goals
    rw [e] at h
    cases h

/-- A Success response of function 3 or 4 is the record of a read response (R194, R233). -/
theorem decodeResponse_of_success_read {fr : Framing} {buf : List Byte}
    (h : diagKind (decodeResponse fr buf).diag = .success)
    (hf : (decodeResponse fr buf).func = 3 ∨ (decodeResponse fr buf).func = 4) :
    decodeResponse fr buf = { headerOf fr buf .none with
      rlen := byteAt buf (headerLength fr)
      values := (List.range ((byteAt buf (headerLength fr)).toNat / 2)).map
        (fun i => get16 fr buf (headerLength fr + 1 + 2 * i))
      serout := if reportsSerial fr (byteAt buf (headerLength fr)).toNat then
          serialOf ((slice buf (headerLength fr + 1) (headerLength fr + 11)).map sanitize)
        else zeroSerial
      serValid := reportsSerial fr (byteAt buf (headerLength fr)).toNat } ∧
    headerLength fr + 1 + (byteAt buf (headerLength fr)).toNat + 2 ≤ buf.length := by
  rcases decodeResponse_success h with ⟨-, hfits, e⟩ | ⟨hecho, -, -⟩
  · exact ⟨e.trans (decodeRead_eq_of_fits hfits), hfits⟩
  · rcases hf with hf | hf <;> rcases hecho with hecho | hecho <;> cases hf.symm.trans hecho

/-- A Success response of function 6 or 16 is the record of a write echo (R195, R196, R234, R235). -/
theorem decodeResponse_of_success_echo {fr : Framing} {buf : List Byte}
    (h : diagKind (decodeResponse fr buf).diag = .success)
    (hf : (decodeResponse fr buf).func = 6 ∨ (decodeResponse fr buf).func = 16) :
    decodeResponse fr buf = { headerOf fr buf .none with
      rstart := get16 fr buf (headerLength fr), rcount := get16 fr buf (headerLength fr + 2) } := by
  rcases decodeResponse_success h with ⟨hread, -, -⟩ | ⟨-, hfits, e⟩
  · rcases hf with hf | hf <;> rcases hread with hread | hread <;> cases hf.symm.trans hread
  · exact e.trans (decodeEcho_of_fits hfits)

/-- Past the checks every function code has its row; the kind Exception has the byte after the header (R192, R230). -/
theorem decodeResponse_of_exception {fr : Framing} {buf : List Byte}
    (h : diagKind (decodeResponse fr buf).diag = .exception) :
    (decodeResponse fr buf).exc = byteAt buf (headerLength fr) := by
  obtain ⟨hl, hc, hx⟩ := (decodeResponse_diag_eq_exceptionResponse_iff fr buf).mp ((diagKind_eq_exception_iff _).mp h)
  rw [decodeResponse_of_flag hl hc hx]

/-! ### The decode commands -/

/-- What a decode command answers: the record of its framing's decoder, latched, with CERR 0. -/
theorem eq_latch_of_exec_decoder {s t : State} {c : Instr} {fr : Framing}
    (hc : (c = .stdDec ∧ fr = .std) ∨ (c = .lxpDec ∧ fr = .lxp s.serialMode)) (h : exec c s = .next t) :
    t = (s.latch (decodeResponse fr s.input)).setCerr .ok :=
  report_next ((exec_decoder hc).symm.trans h)

/-- KIND and the kind it was made from (R45). -/
theorem rstatKind_latch_eq_iff {s : State} {d : Decoded} {k : Kind} :
    rstatKind ((s.latch d).setCerr .ok).rstat = kindCode k ↔ diagKind d.diag = k := by
  rw [State.setCerr_rstat, State.latch_rstat, rstatKind_packRstat]
  exact ⟨fun h => kindCode_injective h, fun h => congrArg kindCode h⟩

theorem rstatFunc_latch (s : State) (d : Decoded) : rstatFunc ((s.latch d).setCerr .ok).rstat = d.func :=
  rstatFunc_packRstat ..

/-- Settles O33: the record of a short buffer is bare, and that of any other reports the header. -/
theorem decodeCommandsReportTheHeader : Obligations.DecodeCommandsReportTheHeader := by
  unfold Obligations.DecodeCommandsReportTheHeader
  intro s t c fr hc h
  obtain rfl := eq_latch_of_exec_decoder hc h
  simp only [State.setCerr_rstat, State.latch_rstat, rstatAddr_packRstat, rstatFunc_packRstat, rstatExcf_packRstat]
  refine ⟨fun hl => ?_, fun hl => ?_⟩
  · rw [decodeResponse_of_short hl]
    decide
  · obtain ⟨haddr, hfunc, hexcf, -, -⟩ := decodeResponse_header hl
    exact ⟨haddr, by rw [hfunc, func_toNat], hexcf⟩

/-- Byte `i` of a slice (R19). -/
theorem slice_getElem? {l : List Byte} {a b i : Nat} (hi : a + i < b) (hl : a + i < l.length) :
    (slice l a b)[i]? = some (byteAt l (a + i)) := by
  rw [slice, List.getElem?_take_of_lt (by omega), List.getElem?_drop, byteAt, List.getD_eq_getElem _ _ hl,
    List.getElem?_eq_getElem hl]

/-- The serial in ten bytes of a header (R229). -/
theorem serialBytes_serialOf_slice {buf : List Byte} {i : Nat} (h : i + 10 ≤ buf.length) :
    serialBytes (serialOf (slice buf i (i + 10))) = slice buf i (i + 10) :=
  serialBytes_serialOf (by rw [slice_length]; omega)

/-- The Standard decoder reports no serial (R198). -/
theorem decodeResponse_std_serials (buf : List Byte) :
    (decodeResponse .std buf).rbser = zeroSerial ∧ (decodeResponse .std buf).rdser = zeroSerial ∧
      (decodeResponse .std buf).serout = zeroSerial ∧ (decodeResponse .std buf).serValid = false := by
  have hlegal := decodeResponse_legal .std buf
  have hvalid : (decodeResponse .std buf).serValid = false := by
    by_cases hkind : diagKind (decodeResponse .std buf).diag = .success
    · rcases decodeResponse_success hkind with ⟨hf, -, -⟩ | ⟨hf, -, -⟩
      · obtain ⟨e, -⟩ := decodeResponse_of_success_read hkind hf
        rw [e]
        rfl
      · rw [decodeResponse_of_success_echo hkind hf]
        rfl
    · exact (hlegal.no_payload hkind).2.2.2
  rcases Nat.lt_or_ge buf.length (headerLength .std + 3) with hl | hl
  · rw [decodeResponse_of_short hl]
    exact ⟨rfl, rfl, rfl, rfl⟩
  · obtain ⟨-, -, -, hbridge, hdevice⟩ := decodeResponse_header hl
    exact ⟨hbridge, hdevice, hlegal.serial_clear hvalid, hvalid⟩

/-- Settles O34: the Standard decoder reports no serial; the Proprietary one the fields of the header, by the strap. -/
theorem decodeCommandsReportTheSerials : Obligations.DecodeCommandsReportTheSerials := by
  unfold Obligations.DecodeCommandsReportTheSerials
  intro s t
  refine ⟨fun h => ?_, fun h => ?_⟩
  · obtain rfl := eq_latch_of_exec_decoder (.inl ⟨rfl, rfl⟩) h
    obtain ⟨hbridge, hdevice, hserout, hvalid⟩ := decodeResponse_std_serials s.input
    exact ⟨hbridge, hdevice, hserout, (rstatSerValid_packRstat ..).trans hvalid⟩
  · obtain rfl := eq_latch_of_exec_decoder (.inr ⟨rfl, rfl⟩) h
    simp only [State.setCerr_rbser, State.latch_rbser, State.setCerr_rdser, State.latch_rdser]
    have hreport (hl : headerLength (.lxp s.serialMode) + 3 ≤ s.input.length) := (decodeResponse_header hl).2.2.2
    refine ⟨fun hl => ?_, fun hl hm => ?_, fun hl hm => ?_, fun hl hm => ?_⟩
    · rw [decodeResponse_of_short (Nat.lt_of_not_le hl)]
      exact ⟨rfl, rfl⟩
    · obtain ⟨hbridge, hdevice⟩ := hreport hl
      rw [hbridge, hdevice, headerReport, hm]
      rw [hm] at hl
      have hl : 22 + 3 ≤ s.input.length := hl
      exact ⟨serialBytes_serialOf_slice (i := 2) (by omega), serialBytes_serialOf_slice (i := 12) (by omega)⟩
    · obtain ⟨hbridge, hdevice⟩ := hreport hl
      rw [hbridge, hdevice, headerReport, hm]
      rw [hm] at hl
      have hl : 12 + 3 ≤ s.input.length := hl
      exact ⟨rfl, serialBytes_serialOf_slice (i := 2) (by omega)⟩
    · obtain ⟨hbridge, hdevice⟩ := hreport hl
      rw [hbridge, hdevice, headerReport, hm]
      rw [hm] at hl
      have hl : 12 + 3 ≤ s.input.length := hl
      exact ⟨serialBytes_serialOf_slice (i := 2) (by omega), rfl⟩

/-- Settles O35: the record of a read response, latched. -/
theorem readResponseValues : Obligations.ReadResponseValues := by
  unfold Obligations.ReadResponseValues
  rintro s t c fr n hc h hkind hfunc rfl
  obtain rfl := eq_latch_of_exec_decoder hc h
  rw [rstatKind_latch_eq_iff] at hkind
  rw [rstatFunc_latch] at hfunc
  obtain ⟨e, -⟩ := decodeResponse_of_success_read hkind hfunc
  simp only [State.setCerr_rlen, State.latch_rlen, State.setCerr_nval, State.latch_nval, State.setCerr_rstart,
    State.latch_rstart, State.setCerr_rcount, State.latch_rcount, State.setCerr_rval, State.latch_rval,
    readCell_cellsOf, e]
  refine ⟨trivial, nval_toNat_of_length (by simp), rfl, rfl, fun i hi => ?_, fun i hi => ?_⟩
  · simp [hi]
  · simpa using hi

/-- Settles O36: the record of a read response reports a serial exactly for ten data bytes. -/
theorem serialReportIsSanitized : Obligations.SerialReportIsSanitized := by
  unfold Obligations.SerialReportIsSanitized
  rintro s t hd h rfl hkind hfunc
  obtain rfl := eq_latch_of_exec_decoder (.inr ⟨rfl, rfl⟩) h
  rw [rstatKind_latch_eq_iff] at hkind
  rw [rstatFunc_latch] at hfunc
  obtain ⟨e, hfits⟩ := decodeResponse_of_success_read hkind hfunc
  simp only [State.setCerr_rstat, State.latch_rstat, rstatSerValid_packRstat, State.setCerr_serout, State.latch_serout,
    e]
  refine ⟨fun hten => ?_, fun hten => ?_⟩
  · have hlen : (byteAt s.input (headerLength (.lxp s.serialMode))).toNat = 10 := by rw [hten]; rfl
    have hrep : reportsSerial (.lxp s.serialMode) 10 = true := rfl
    rw [hlen, if_pos hrep]
    refine ⟨hrep, fun i hi => ?_⟩
    rw [serialBytes_serialOf (by rw [List.length_map, slice_length]; omega), List.getElem?_map,
      slice_getElem? (by omega) (by omega)]
    rfl
  · have hrep : reportsSerial (.lxp s.serialMode) (byteAt s.input (headerLength (.lxp s.serialMode))).toNat = false :=
      Bool.eq_false_iff.mpr fun h => hten (BitVec.eq_of_toNat_eq (length_of_reportsSerial h))
    rw [hrep]
    exact ⟨rfl, rfl⟩

/-- Settles O37: the record of a write echo, latched. -/
theorem writeEchoFields : Obligations.WriteEchoFields := by
  unfold Obligations.WriteEchoFields
  intro s t c fr hc h hkind hfunc
  obtain rfl := eq_latch_of_exec_decoder hc h
  rw [rstatKind_latch_eq_iff] at hkind
  rw [rstatFunc_latch] at hfunc
  have e := decodeResponse_of_success_echo hkind hfunc
  simp only [State.setCerr_rlen, State.latch_rlen, State.setCerr_nval, State.latch_nval, State.setCerr_rstart,
    State.latch_rstart, State.setCerr_rcount, State.latch_rcount, State.setCerr_rval, State.latch_rval, e]
  exact ⟨trivial, trivial, rfl, rfl, rfl⟩

/-- Settles O39: the record is legal. -/
theorem noPartialPayload : Obligations.NoPartialPayload := by
  unfold Obligations.NoPartialPayload
  intro s t c hc h
  obtain ⟨fr, rfl⟩ : ∃ fr, t = (s.latch (decodeResponse fr s.input)).setCerr .ok := by
    rcases hc with rfl | rfl
    · exact ⟨_, eq_latch_of_exec_decoder (.inl ⟨rfl, rfl⟩) h⟩
    · exact ⟨_, eq_latch_of_exec_decoder (.inr ⟨rfl, rfl⟩) h⟩
  have hlegal := decodeResponse_legal fr s.input
  rw [ne_eq, ne_eq, rstatKind_latch_eq_iff, rstatKind_latch_eq_iff]
  refine ⟨fun hkind => ?_, fun hkind => (rstatExc_packRstat ..).trans (hlegal.exc_only hkind)⟩
  obtain ⟨hvalues, hstart, hcount, hvalid⟩ := hlegal.no_payload hkind
  refine ⟨?_, hstart, hcount, (rstatSerValid_packRstat ..).trans hvalid, hlegal.serial_clear hvalid, ?_⟩
  · rw [State.setCerr_nval, State.latch_nval, hvalues]
    rfl
  · rw [State.setCerr_rval, State.latch_rval, hvalues]
    rfl

/-! ### The abstract decoded response -/

section DecodedResponse

variable {t : State}

theorem decodedResponse_kind (t : State) : t.decodedResponse.kind = kindOfCode (rstatKind t.rstat) := rfl

/-- The exception code is there exactly for Exception (R57). -/
theorem decodedResponse_exceptionCode (t : State) : t.decodedResponse.exceptionCode =
    if t.decodedResponse.kind = .exception then some (rstatExc t.rstat) else none := rfl

/-- Every kind but Success has the empty mapping (R57). -/
theorem decodedResponse_values_of_not_success (h : t.decodedResponse.kind ≠ .success) :
    t.decodedResponse.values = [] := by
  rw [decodedResponse_kind] at h
  cases hk : kindOfCode (rstatKind t.rstat) with
  | success => exact absurd hk h
  | exception | checksumMismatch | malformed => simp [State.decodedResponse, hk]

theorem decodedResponse_values_of_read (h : t.decodedResponse.kind = .success)
    (hf : rstatFunc t.rstat = 3 ∨ rstatFunc t.rstat = 4) : t.decodedResponse.values = t.readValues := by
  rw [decodedResponse_kind] at h
  rcases hf with hf | hf <;> simp [State.decodedResponse, h, hf]

theorem decodedResponse_values_of_writeSingle (h : t.decodedResponse.kind = .success) (hf : rstatFunc t.rstat = 6) :
    t.decodedResponse.values = [(t.rstart.toNat, t.rcount)] := by
  rw [decodedResponse_kind] at h
  simp [State.decodedResponse, h, hf]

theorem decodedResponse_values_of_writeMany (h : t.decodedResponse.kind = .success) (hf : rstatFunc t.rstat = 16) :
    t.decodedResponse.values = [] := by
  rw [decodedResponse_kind] at h
  simp [State.decodedResponse, h, hf]

/-- The values of a read by their offset, where RVAL holds the first NVAL of them (R37). -/
theorem readValues_of_readCell {n : Nat} {f : Nat → U16} (hn : t.nval.toNat = n)
    (hval : ∀ i, i < n → readCell t.rval i = some (f i)) :
    t.readValues = (List.range n).map (fun i => (i, f i)) := by
  rw [State.readValues, hn]
  exact List.map_congr_left fun i hi =>
    congrArg (Prod.mk i) (u16Cell_of_readCell (hval i (List.mem_range.mp hi)))

end DecodedResponse

/-- The abstract response's kind is KIND (R57). -/
theorem decodedResponse_latch_kind (s : State) (d : Decoded) :
    ((s.latch d).setCerr .ok).decodedResponse.kind = diagKind d.diag := by
  rw [decodedResponse_kind, State.setCerr_rstat, State.latch_rstat, rstatKind_packRstat, kindOfCode_kindCode]

/-- Settles O40: the abstract response's kind is the record's, and its values are those the obligations about reads and
echoes find in the registers. -/
theorem decodedResponseOfADecode : Obligations.DecodedResponseOfADecode := by
  unfold Obligations.DecodedResponseOfADecode
  intro s t c fr hc h
  have ht := eq_latch_of_exec_decoder hc h
  have hkind : t.decodedResponse.kind = diagKind (decodeResponse fr s.input).diag := by
    rw [ht, decodedResponse_latch_kind]
  have hcode : rstatKind t.rstat = kindCode t.decodedResponse.kind := by
    rw [hkind, ht, rstatKind_latch_eq_iff]
  refine ⟨hcode.symm, fun hk => ⟨?_, decodedResponse_values_of_not_success (by simp [hk])⟩, fun hk => ?_, fun hk => ?_,
    fun hk hf => ?_, fun hk hf => ?_, fun hk hf => decodedResponse_values_of_writeMany hk hf⟩
  · rw [decodedResponse_exceptionCode, if_pos hk, ht, State.setCerr_rstat, State.latch_rstat, rstatExc_packRstat,
      decodeResponse_of_exception (hkind.symm.trans hk)]
  · rw [decodedResponse_exceptionCode, if_neg hk]
  · exact decodedResponse_values_of_not_success (by rcases hk with hk | hk <;> simp [hk])
  · obtain ⟨-, hnval, -, -, hval, -⟩ := readResponseValues s t c fr _ hc h (hcode.trans (congrArg kindCode hk)) hf rfl
    rw [decodedResponse_values_of_read hk hf, readValues_of_readCell hnval hval]
  · obtain ⟨hstart, hcount, -⟩ := writeEchoFields s t c fr hc h (hcode.trans (congrArg kindCode hk)) (.inl hf)
    rw [decodedResponse_values_of_writeSingle hk hf, hstart, hcount]

end Sys2Proof.Machine
end

section
/-! PROOFS. The CRC as a table lookup, its residue law, and the streamed CRC (spec 40_crc.md R140 to R145). Iterations
on a register whose low bits are clear are plain shifts, so a byte's work depends on the low byte of the register
alone. -/

namespace Sys2Proof

theorem lowByte_eq_setWidth (v : U16) : lowByte v = v.setWidth 8 :=
  BitVec.eq_of_toNat_eq (by rw [lowByte_toNat, BitVec.toNat_setWidth])

/-- The high byte, widened, is the register shifted down (R20). -/
theorem highByte_setWidth (v : U16) : (highByte v).setWidth 16 = v >>> 8 := by
  apply BitVec.eq_of_toNat_eq
  have hlt := v.isLt
  rw [BitVec.toNat_setWidth, highByte_toNat, BitVec.toNat_ushiftRight, Nat.shiftRight_eq_div_pow]
  omega

/-- Iterations that find only clear low bits are shifts (R140). -/
theorem crcShifts_of_low_clear (n : Nat) (c : U16) (h : ∀ k, k < n → c.getLsbD k = false) :
    crcShifts n c = c >>> n := by
  induction n generalizing c with
  | zero => rw [crcShifts, BitVec.ushiftRight_zero]
  | succ n ih =>
    have hshift : crcShift c = c >>> 1 := if_neg (ne_true_of_eq_false (h 0 n.succ_pos))
    rw [crcShifts, hshift, ih _ fun k hk => ?_, ← BitVec.shiftRight_add, Nat.add_comm]
    rw [BitVec.getLsbD_ushiftRight]
    exact h (1 + k) (by omega)

/-- The register without its low byte, and what shifting that byte out leaves. -/
theorem crcShifts_xor_lowByte (c : U16) : crcShifts 8 (c ^^^ (lowByte c).setWidth 16) = c >>> 8 := by
  have hbit (k : Nat) : (c ^^^ (lowByte c).setWidth 16).getLsbD k = (decide (8 ≤ k) && c.getLsbD k) := by
    rw [lowByte_eq_setWidth, BitVec.getLsbD_xor, BitVec.getLsbD_setWidth, BitVec.getLsbD_setWidth]
    rcases Nat.lt_or_ge k 8 with hk | hk
    · simp [hk, hk.not_ge, show k < 16 by omega]
    · simp [hk, hk.not_gt]
  rw [crcShifts_of_low_clear 8 _ fun k hk => ?_]
  · apply BitVec.eq_of_getLsbD_eq
    intro k _
    rw [BitVec.getLsbD_ushiftRight, BitVec.getLsbD_ushiftRight, hbit, decide_eq_true (by omega), Bool.true_and]
  · rw [hbit, decide_eq_false (by omega), Bool.false_and]

theorem crcStep_zero (b : Byte) : crcStep 0 b = crcShifts 8 (b.setWidth 16) :=
  congrArg (crcShifts 8) BitVec.zero_xor

/-- Settles O19: the low byte with the data byte and the rest of the register go their ways apart, by linearity. -/
theorem crcStepIsATableLookup : Obligations.CrcStepIsATableLookup := by
  unfold Obligations.CrcStepIsATableLookup
  intro c b
  have hsplit : c ^^^ b.setWidth 16 = (c ^^^ (lowByte c).setWidth 16) ^^^ (lowByte c ^^^ b).setWidth 16 := by
    rw [BitVec.setWidth_xor, BitVec.xor_assoc, ← BitVec.xor_assoc ((lowByte c).setWidth 16), BitVec.xor_self,
      BitVec.zero_xor]
  rw [crcStep, hsplit, crcShifts_xor, crcShifts_xor_lowByte, crcStep_zero]

/-- Folding the register's own low byte in shifts it out. -/
theorem crcStep_lowByte (c : U16) : crcStep c (lowByte c) = c >>> 8 := crcShifts_xor_lowByte c

/-- Settles O21: the trailer's two bytes are the register's own, and each shifts itself out. -/
theorem crcOfAFrameIsZero : Obligations.CrcOfAFrameIsZero := by
  unfold Obligations.CrcOfAFrameIsZero
  intro f
  calc crc16 (f ++ [lowByte (crc16 f), highByte (crc16 f)])
      = crcStep (crcStep (crc16 f) (lowByte (crc16 f))) (highByte (crc16 f)) := crcFrom_append _ _ _
    _ = crcShifts 8 ((crc16 f >>> 8) ^^^ (crc16 f >>> 8)) := by rw [crcStep_lowByte, crcStep, highByte_setWidth]
    _ = 0 := by rw [BitVec.xor_self]; decide

end Sys2Proof

namespace Sys2Proof.Machine

/-- One CRC.BYTE per byte folds the sequence into CRCACC (R142 (b)). -/
theorem streamCrc_next (l : List Byte) (s : State) :
    ∃ t, streamCrc l s = .next t ∧ t.crcacc = crcFrom s.crcacc l := by
  induction l generalizing s with
  | nil => exact ⟨s, rfl, rfl⟩
  | cons b rest ih =>
    obtain ⟨t, ht, hcrc⟩ := ih (({ s with crcin := b }.setCrcacc (crcStep s.crcacc b)).setCerr .ok)
    exact ⟨t, ht, hcrc⟩

/-- Settles O20: both fold the input into the initial value. -/
theorem streamedCrcEqualsCrcBuf : Obligations.StreamedCrcEqualsCrcBuf := by
  unfold Obligations.StreamedCrcEqualsCrcBuf
  intro s
  obtain ⟨u, hu, hcrc⟩ := streamCrc_next s.input ((s.setCrcacc Config.crcInit).setCerr .ok)
  exact ⟨_, u, _, exec_crcInit s, hu, exec_crcBuf s, hcrc⟩

/-- Settles O18: the input is what IBUF yields at the indices below ILEN. -/
theorem inputIsTheBufferPrefix : Obligations.InputIsTheBufferPrefix := by
  unfold Obligations.InputIsTheBufferPrefix
  intro s
  refine ⟨by simp [State.input], fun i b hi hb => ?_⟩
  rw [State.input, List.getElem?_map, List.getElem?_range hi, Option.map_some, byteCell_of_readCell hb]

end Sys2Proof.Machine
end

section
/-! PROOFS. What the decoders make of requests and of the reference responder's responses, and words of the spec (spec
42_std_codec.md R199, 43_lxp_codec.md R238, 95_test_vectors.md sections 4 and 6, 90_conflicts.md C3). -/

namespace Sys2Proof.Machine

/-! ### Requests as frames -/

/-- The payload of a logical operation's request (R31, R101). -/
def opPayload : LogicalOp → Payload
  | .readRegisters .holding start count => .reqRd3 start count
  | .readRegisters .input start count => .reqRd4 start count
  | .writeRegister register value => .reqWr1 register value
  | .writeRegisters start values => .reqWrn start values

/-- The request of a logical operation, as a frame of a framing. -/
def opFrame (fr : Framing) (a : Byte) (hdr : Option HeaderSerials) (op : LogicalOp) : List Byte :=
  wireFrame a (opPayload op).function hdr ((opPayload op).body fr)

theorem stdEncodeOp_eq_opFrame (a : Byte) (op : LogicalOp) : stdEncodeOp a op = opFrame .std a none op := by
  cases op with
  | readRegisters f start count =>
    cases f with
    | holding => exact encode_wireRow .std a (.reqRd3 start count)
    | input => exact encode_wireRow .std a (.reqRd4 start count)
  | writeRegister register value => exact encode_wireRow .std a (.reqWr1 register value)
  | writeRegisters start values => exact encode_wireRow .std a (.reqWrn start values)

theorem lxpEncodeOp_eq_opFrame {m : SerialMode} {ser : HeaderSerials} (h : ser.fits m = true) (a : Byte)
    (op : LogicalOp) : lxpEncodeOp a ser op = opFrame (.lxp m) a (some ser) op := by
  cases op with
  | readRegisters f start count =>
    cases f with
    | holding => exact encode_wireRow (.lxp h) a (.reqRd3 start count)
    | input => exact encode_wireRow (.lxp h) a (.reqRd4 start count)
  | writeRegister register value => exact encode_wireRow (.lxp h) a (.reqWr1 register value)
  | writeRegisters start values => exact encode_wireRow (.lxp h) a (.reqWrn start values)

/-- Every FSEL value is that of a register class (R39). -/
theorem exists_fselOf (fsel : BitVec 1) : ∃ f, fselOf f = fsel := by
  rcases BitVec.eq_zero_or_eq_one fsel with h | h
  · exact ⟨.holding, h.symm⟩
  · exact ⟨.input, h.symm⟩

/-- A read request, of either register class, has function byte 3 or 4 before its two words (R110). -/
theorem opFrame_read (fr : Framing) (a : Byte) (hdr : Option HeaderSerials) (f : RegisterClass) (start count : U16) :
    ∃ fb : Byte, (fb.toNat = 3 ∨ fb.toNat = 4) ∧
      opFrame fr a hdr (.readRegisters f start count) = wireFrame a fb hdr (put16 fr start ++ put16 fr count) := by
  cases f with
  | holding => exact ⟨3, .inl rfl, rfl⟩
  | input => exact ⟨4, .inr rfl, rfl⟩

section Requests

variable {fr : Framing} {hdr : Option HeaderSerials} (h : Carries fr hdr) (a : Byte)
include h

/-! ### A request given to its own framing's decoder -/

/-- A write-single request is its own echo (R199 (b), R238 (c)). -/
theorem decodeResponse_writeRegister (register value : U16) :
    decodeResponse fr (opFrame fr a hdr (.writeRegister register value)) =
      { rowRecord .none a 6 hdr with rstart := register, rcount := value } := by
  have hecho := decodeResponse_wireFrame_echo h a (fb := 6) (x := register) (y := value) (extra := []) (.inl rfl)
  rwa [List.append_nil] at hecho

/-- A write-multiple request is read as an echo of its start and count (R199 (b), R238 (c)). -/
theorem decodeResponse_writeRegisters (start : U16) (values : List U16) :
    decodeResponse fr (opFrame fr a hdr (.writeRegisters start values)) =
      { rowRecord .none a 16 hdr with rstart := start, rcount := countField values } := by
  have hecho := decodeResponse_wireFrame_echo h a (fb := 16) (x := start) (y := countField values)
    (extra := [byteCount values] ++ values.flatMap (put16 fr)) (.inr rfl)
  rwa [← List.append_assoc] at hecho

/-- A read request is read as a read response that declares the first byte of `start` (R199 (c), R238 (d)). -/
theorem decodeResponse_readRegisters (f : RegisterClass) (start count : U16) :
    (decodeResponse fr (opFrame fr a hdr (.readRegisters f start count))).diag =
      (if (byteAt (put16 fr start) 0).toNat ≤ 3 then .none else .lengthExceedsBuffer) ∧
    (decodeResponse fr (opFrame fr a hdr (.readRegisters f start count))).rlen = byteAt (put16 fr start) 0 := by
  obtain ⟨fb, hfb, hframe⟩ := opFrame_read fr a hdr f start count
  rw [hframe]
  have hbody : (put16 fr start ++ put16 fr count).length = 4 := by simp
  have hlen := wireFrame_length a fb (put16 fr start ++ put16 fr count) h
  have hdecl := byteAt_wireFrame a fb (put16 fr start ++ put16 fr count) h (i := 0) (by omega)
  rw [Nat.add_zero, byteAt_append_left _ (by simp)] at hdecl
  have hflag : fb.getLsbD 7 = false := by
    rw [flag_eq_decide]
    exact decide_eq_false (by omega)
  rw [decodeResponse_of_read (by omega) (crcOk_wireFrame ..) hflag (by rw [byteAt_wireFrame_one]; omega)]
  split_ifs with hle
  · rw [decodeRead_eq_of_fits (by rw [hdecl]; omega)]
    exact ⟨rfl, hdecl⟩
  · rcases decodeRead_cases fr (wireFrame a fb hdr (put16 fr start ++ put16 fr count)) with ⟨-, e⟩ | ⟨hfits, -⟩
    · rw [e]
      exact ⟨rfl, hdecl⟩
    · rw [hdecl] at hfits
      omega

/-! ### The responses of the reference responder -/

omit h in
/-- A write-single is answered by its own bytes (95_test_vectors.md section 6). -/
theorem respond_writeRegister (register value : U16) (regs : List (Nat × U16)) :
    respond fr (opFrame fr a hdr (.writeRegister register value)) regs =
      opFrame fr a hdr (.writeRegister register value) := rfl

/-- The front of a frame: its header and the front of its body. -/
theorem slice_wireFrame_front (fb : Byte) {body : List Byte} {j : Nat} (hj : j ≤ body.length) :
    slice (wireFrame a fb hdr body) 0 (headerLength fr + j) = [a, fb] ++ serialField hdr ++ body.take j := by
  rw [wireFrame_split, slice_zero, ← header_length a fb h, List.take_length_add_append,
    List.take_append_of_le_length hj]

/-- A write-multiple is answered by the echo of its start and count. -/
theorem respond_writeRegisters (start : U16) (values : List U16) (regs : List (Nat × U16)) :
    respond fr (opFrame fr a hdr (.writeRegisters start values)) regs =
      wireFrame a 0x10 hdr (put16 fr start ++ put16 fr (countField values)) := by
  have hbody : ((Payload.reqWrn start values).body fr).take 4 = put16 fr start ++ put16 fr (countField values) := by
    rw [Payload.body, List.append_assoc]
    exact List.take_left' (by simp)
  have hfour := Payload.request_body_length (p := .reqWrn start values) fr rfl
  have hfront := slice_wireFrame_front h a 0x10 hfour
  rw [hbody] at hfront
  exact congrArg closeFrame hfront

omit h in
theorem deviceBlock_length {regs : List (Nat × U16)} {start n : Nat} {values : List U16}
    (hblock : deviceBlock regs start n = some values) : values.length = n := by
  induction n generalizing start values with
  | zero => cases hblock; rfl
  | succ n ih =>
    rw [deviceBlock] at hblock
    split at hblock
    · next hrest => cases hblock; rw [List.length_cons, ih hrest]
    · cases hblock

/-- A read of registers the device has is answered by a read response with their values. -/
theorem respond_readRegisters {regs : List (Nat × U16)} {fb : Byte} {start count : U16} {values : List U16}
    (hfb : fb.toNat = 3 ∨ fb.toNat = 4) (hone : 1 ≤ count.toNat) (hle : count.toNat ≤ 127)
    (hblock : deviceBlock regs start.toNat count.toNat = some values) :
    respond fr (wireFrame a fb hdr (put16 fr start ++ put16 fr count)) regs =
      wireFrame a fb hdr (lengthByte (values.flatMap (put16 fr)) :: (values.flatMap (put16 fr) ++ [])) := by
  obtain ⟨-, hstart, hcount, -⟩ := (eq_put16_put16_iff fr _ start count []).mp rfl
  rw [List.append_nil] at hstart hcount
  have hbody : (put16 fr start ++ put16 fr count).length = 4 := by simp
  have hfirst := get16_wireFrame a fb (put16 fr start ++ put16 fr count) h (i := 0) (by omega)
  have hsecond := get16_wireFrame a fb (put16 fr start ++ put16 fr count) h (i := 2) (by omega)
  rw [hstart, Nat.add_zero] at hfirst
  rw [hcount] at hsecond
  have hdeclared : BitVec.ofNat 8 (2 * count.toNat) = lengthByte (values.flatMap (put16 fr)) := by
    rw [lengthByte, flatMap_put16_length, deviceBlock_length hblock]
  simp only [respond, byteAt_wireFrame_one, if_pos hfb, hfirst, hsecond, hblock,
    if_neg (show ¬ (count.toNat = 0 ∨ Config.nvalMax < count.toNat) by simp only [Config.nvalMax]; omega),
    slice_wireFrame_header a fb _ h, hdeclared]
  rw [wireFrame, List.append_nil, List.append_assoc]
  rfl

/-! ### Round trips through the reference responder -/

/-- A read is answered with the device's values. -/
theorem decodeResponse_respond_readRegisters {regs : List (Nat × U16)} {f : RegisterClass} {start count : U16}
    {values : List U16} (hone : 1 ≤ count.toNat) (hle : count.toNat ≤ 127)
    (hblock : deviceBlock regs start.toNat count.toNat = some values) :
    ∃ func, decodeResponse fr (respond fr (opFrame fr a hdr (.readRegisters f start count)) regs) =
      readRecord fr a func hdr (values.flatMap (put16 fr)) := by
  obtain ⟨fb, hfb, hframe⟩ := opFrame_read fr a hdr f start count
  have hvalues := deviceBlock_length hblock
  have hdata : dataFits (values.flatMap (put16 fr)) = true := by
    rw [dataFits, flatMap_put16_length]
    exact decide_eq_true (by omega)
  rw [hframe, respond_readRegisters h a hfb hone hle hblock]
  exact ⟨_, decodeResponse_wireFrame_read h a hfb hdata⟩

/-- A write-multiple is answered with its start and the number of its values. -/
theorem decodeResponse_respond_writeRegisters (start : U16) (values : List U16) (regs : List (Nat × U16)) :
    decodeResponse fr (respond fr (opFrame fr a hdr (.writeRegisters start values)) regs) =
      { rowRecord .none a 16 hdr with rstart := start, rcount := countField values } := by
  have hecho := decodeResponse_wireFrame_echo h a (fb := 16) (x := start) (y := countField values) (extra := [])
    (.inr rfl)
  rwa [List.append_nil, ← respond_writeRegisters h a start values regs] at hecho

/-- Every valid operation round-trips through the reference responder, in one framing (95_test_vectors.md section 6). -/
theorem roundTrip (regs : List (Nat × U16)) :
    (∀ values f start count, 1 ≤ count.toNat → count.toNat ≤ 127 →
      deviceBlock regs start.toNat count.toNat = some values →
      ∀ x, x = decodeResponse fr (respond fr (opFrame fr a hdr (.readRegisters f start count)) regs) →
        x.diag = .none ∧ x.values = values) ∧
    (∀ register value x, x = decodeResponse fr (respond fr (opFrame fr a hdr (.writeRegister register value)) regs) →
      x.diag = .none ∧ x.rstart = register ∧ x.rcount = value) ∧
    (∀ start values, values.length ≤ 127 →
      ∀ x, x = decodeResponse fr (respond fr (opFrame fr a hdr (.writeRegisters start values)) regs) →
        x.diag = .none ∧ x.rstart = start ∧ x.rcount.toNat = values.length) := by
  refine ⟨?_, ?_, ?_⟩
  · rintro values f start count hone hle hblock x rfl
    obtain ⟨func, e⟩ := decodeResponse_respond_readRegisters h a (f := f) hone hle hblock
    rw [e]
    exact ⟨rfl, valuesOf_flatMap fr values⟩
  · rintro register value x rfl
    rw [respond_writeRegister, decodeResponse_writeRegister h]
    exact ⟨rfl, rfl, rfl⟩
  · rintro start values hle x rfl
    rw [decodeResponse_respond_writeRegisters h]
    exact ⟨rfl, rfl, countField_toNat (decide_eq_true hle)⟩

end Requests

/-! ### The statements -/

/-- Settles O41: a write request reads as its own echo in either framing. -/
theorem encodedWritesRoundTrip : Obligations.EncodedWritesRoundTrip := by
  intro a r v vs m b d hle
  have hfits := selectSerials_fits m b d
  have hcount : (countField vs).toNat = vs.length := countField_toNat (decide_eq_true hle)
  have hstd1 := decodeResponse_writeRegister .std a r v
  have hstdn := decodeResponse_writeRegisters .std a r vs
  have hlxp1 := decodeResponse_writeRegister (.lxp hfits) a r v
  have hlxpn := decodeResponse_writeRegisters (.lxp hfits) a r vs
  rw [← stdEncodeOp_eq_opFrame] at hstd1 hstdn
  rw [← lxpEncodeOp_eq_opFrame hfits] at hlxp1 hlxpn
  refine ⟨?_, ?_, ?_, ?_⟩
  · intro x hx
    rw [hx.trans hstd1]
    exact ⟨rfl, rfl, rfl⟩
  · intro x hx
    rw [hx.trans hstdn]
    exact ⟨rfl, rfl, hcount⟩
  · intro x hx
    rw [hx.trans hlxp1]
    exact ⟨rfl, rfl, rfl, rfl, rfl⟩
  · intro x hx
    rw [hx.trans hlxpn]
    exact ⟨rfl, rfl, hcount⟩

/-- Settles O42: the byte in the length byte's place is the first byte of `start`. -/
theorem readRequestParsedAsResponse : Obligations.ReadRequestParsedAsResponse := by
  intro a fsel start count m b d
  obtain ⟨f, rfl⟩ := exists_fselOf fsel
  have hfits := selectSerials_fits m b d
  obtain ⟨hstdDiag, hstdLen⟩ := decodeResponse_readRegisters .std a f start count
  obtain ⟨hlxpDiag, hlxpLen⟩ := decodeResponse_readRegisters (.lxp hfits) a f start count
  rw [← stdEncodeOp_eq_opFrame] at hstdDiag hstdLen
  rw [← lxpEncodeOp_eq_opFrame hfits] at hlxpDiag hlxpLen
  refine ⟨?_, hstdLen, ?_, hlxpLen⟩
  · rw [← highByte_toNat]
    exact hstdDiag
  · rw [← lowByte_toNat]
    exact hlxpDiag

/-- Settles O44: `roundTrip` in each framing. -/
theorem roundTripThroughTheReferenceResponder : Obligations.RoundTripThroughTheReferenceResponder := by
  intro m ser a regs op hfits
  obtain ⟨hstdRead, hstdWrite, hstdMany⟩ := roundTrip .std a regs
  obtain ⟨hlxpRead, hlxpWrite, hlxpMany⟩ := roundTrip (.lxp hfits) a regs
  rw [stdEncodeOp_eq_opFrame, lxpEncodeOp_eq_opFrame hfits]
  refine ⟨?_, ?_, ?_⟩
  · rintro values f start count rfl hone hle hblock x (hx | hx)
    · exact hstdRead values f start count hone hle hblock x hx
    · exact hlxpRead values f start count hone hle hblock x hx
  · rintro register value rfl x (hx | hx)
    · exact hstdWrite register value x hx
    · exact hlxpWrite register value x hx
  · rintro start values rfl hle x (hx | hx)
    · exact hstdMany start values hle x hx
    · exact hlxpMany start values hle x hx

/-- Settles O3: the bytes are the encodings of the rows the spec gives. -/
theorem wordsOfTheSpecDecode : Obligations.WordsOfTheSpecDecode := by
  have hdecode {sp : Space} {buf : List Byte} {i : Instr} (hwf : i.wf .both = true) (hsp : i.space = sp)
      (henc : encode i = buf) : decode .both sp buf = .ok i :=
    (decode_eq_ok_iff .both sp buf i).mpr ⟨⟨hwf, hsp⟩, henc⟩
  refine ⟨hdecode rfl rfl rfl, hdecode rfl rfl rfl, hdecode rfl rfl rfl, ?_, ?_, ?_, ?_, ?_⟩
  · exact hdecode rfl rfl (by decide +kernel)
  · exact hdecode rfl rfl (by decide +kernel)
  · exact hdecode rfl rfl (by decide +kernel)
  · exact hdecode rfl rfl (by decide +kernel)
  · exact hdecode rfl rfl (by decide +kernel)

end Sys2Proof.Machine
end
